-- ==== Sys2Proof/Word.lean ====
section
/-! DEFINITION. The word types of the block and the two fixed-size tuples its banks are made of.
Spec: 00_scope.md R8 and R11 (value kinds and widths), 10_state.md R59 (two oscillators, six LFOs). -/

namespace Sys2Proof

/-- A binary32 value carried as its 32-bit pattern: sign in bit 31, exponent in 30:23, fraction in 22:0 (R11). -/
abbrev F32 := BitVec 32

/-- An unsigned 32-bit integer; a register or response word as a bare pattern (R11). -/
abbrev U32 := BitVec 32

/-- One 64-bit command word (R200). -/
abbrev Cmd := BitVec 64

/-- A voice slot, 0..5 (R7 `NUM_VOICES`). -/
abbrev Slot := Fin 6

/-- An oscillator index, 0 or 1 (R7 `NUM_OSC`). -/
abbrev OscIx := Fin 2

/-- An LFO destination index, 0..5 in the order of R56: Tune, Morph, Squish, Distort, Volume, Decat. -/
abbrev DestIx := Fin 6

/-- A cursor of the output ring buffer, 0..44099 (R160). -/
abbrev Cursor := Fin 44100

/-- The two-entry bank whose entry `i` is `f i`. -/
def vec2 {α : Type} (f : OscIx → α) : Vector α 2 := #v[f 0, f 1]

/-- The six-entry bank whose entry `i` is `f i`. -/
def vec6 {α : Type} (f : Fin 6 → α) : Vector α 6 := #v[f 0, f 1, f 2, f 3, f 4, f 5]

@[simp] theorem vec2_get {α : Type} (f : OscIx → α) (i : OscIx) : (vec2 f)[i] = f i := by
  fin_cases i <;> rfl

@[simp] theorem vec6_get {α : Type} (f : Fin 6 → α) (i : Fin 6) : (vec6 f)[i] = f i := by
  fin_cases i <;> rfl

end Sys2Proof
end

