-- ==== Sys2Proof/Config.lean ====
section
/-! DEFINITION. What an implementation of the block fixes and this spec leaves open: the OPEN parameters of
00_scope.md R9 (92_eei_decisions.md D6). Each is an opaque constant with no body, so a theorem about the
machine holds whatever function or depth is supplied. The constraints R262 and R263 put on the four functions
hold by construction: Machine/Functions.lean wraps the raw constants. -/

namespace Sys2Proof.Config

/-- The raw `FN_POW` of R9, read only on operands whose result R262 leaves open. -/
opaque rawPow : F32 → F32 → F32

/-- The raw `FN_EXP` of R9, read only on operands whose result R263 leaves open. -/
opaque rawExp : F32 → F32

/-- The raw `FN_TANH` of R9, read only at non-negative finite operands (R263: the function is odd). -/
opaque rawTanh : F32 → F32

/-- The raw `FN_SIN` of R9, read only at finite operands (R263). -/
opaque rawSin : F32 → F32

/-- How far `CMD_FIFO_DEPTH` exceeds its least legal value 1 (R9). -/
opaque cmdDepthExtra : Nat

/-- How far `RSP_FIFO_DEPTH` exceeds its least legal value 2 (R9). -/
opaque rspDepthExtra : Nat

/-- `CMD_LATENCY` of R9: the cycles a command takes. No rule depends on it (R620) and nothing here reads it:
the block is untimed (R3). -/
opaque cmdLatency : Cmd → Nat

/-- `CMD_FIFO_DEPTH`: entries of the command FIFO, at least 1 (R9). -/
def cmdFifoDepth : Nat := cmdDepthExtra + 1

/-- `RSP_FIFO_DEPTH`: entries of the response FIFO, at least 2 (R9). -/
def rspFifoDepth : Nat := rspDepthExtra + 2

/-- The four open functions of R9 as one argument of the datapath rules ("a model takes as arguments"). -/
structure Fns where
  /-- `FN_POW(x, y)` -/
  pow  : F32 → F32 → F32
  /-- `FN_EXP(x)` -/
  exp  : F32 → F32
  /-- `FN_TANH(x)` -/
  tanh : F32 → F32
  /-- `FN_SIN(x)` -/
  sin  : F32 → F32

end Sys2Proof.Config
end

