-- ==== Sys2Proof/Machine/Float.lean ====
section
/-! DEFINITION. Binary32 arithmetic and the datapath primitives of 40_numerics.md (R250 to R261), computed
exactly on natural numbers and rounded once. Every finite binary32 is a whole number of UNITS of 2^-149, so a
finite value is an `Int` and rounding is one division with remainder. -/

namespace Sys2Proof.Machine.Fp

/-! ## Reading a pattern (00_scope.md R11) -/

/-- The 31 bits below the sign: for non-NaN patterns they order by magnitude. -/
def mag (x : F32) : Nat := x.toNat % 2 ^ 31

/-- The sign bit, bit 31. -/
def sign (x : F32) : Bool := decide (2 ^ 31 ≤ x.toNat)

/-- The magnitude pattern of infinity. -/
def infMag : Nat := 0x7F800000

def isNaN (x : F32) : Bool := decide (infMag < mag x)

def isInf (x : F32) : Bool := decide (mag x = infMag)

def isZero (x : F32) : Bool := decide (mag x = 0)

/-- Neither NaN nor infinite. -/
def isFinite (x : F32) : Bool := decide (mag x < infMag)

/-- The canonical quiet NaN that every operation delivers (R253). -/
def nan : F32 := 0x7FC00000#32

/-- The pattern with sign `s` and magnitude bits `m`. -/
def pack (s : Bool) (m : Nat) : F32 := BitVec.ofNat 32 (if s then 2 ^ 31 + m else m)

/-- The infinity of sign `s`. -/
def inf (s : Bool) : F32 := pack s infMag

/-- The magnitude of a finite pattern in units of 2^-149; subnormals are used as they are (R251). -/
def units (x : F32) : Nat :=
  if mag x < 2 ^ 23 then mag x else (2 ^ 23 + mag x % 2 ^ 23) * 2 ^ (mag x / 2 ^ 23 - 1)

/-- The signed value of a finite pattern in units of 2^-149. -/
def val (x : F32) : Int := if sign x then -(units x : Int) else units x

/-! ## Rounding to nearest, ties to even (R251) -/

/-- The integer nearest to `n / d`, a tie going to the even one. -/
def roundDiv (n d : Nat) : Nat :=
  if d < 2 * (n % d) ∨ (2 * (n % d) = d ∧ n / d % 2 = 1) then n / d + 1 else n / d

/-- How many bits of `n / d` (in units) lie below the last of 24 significant bits; 0 in the subnormal range. -/
def excess (n d : Nat) : Nat := if n / d < 2 ^ 24 then 0 else Nat.log2 (n / d) - 23

/-- The magnitude pattern of the binary32 nearest to `n / d` units; too large a magnitude gives infinity (R251). -/
def roundMag (n d : Nat) : Nat :=
  min (excess n d * 2 ^ 23 + roundDiv n (d * 2 ^ excess n d)) infMag

/-! ## The operators of R251 and R253 -/

/-- Sign flip; a NaN gives the canonical NaN (R365, R401). -/
def neg (x : F32) : F32 := if isNaN x then nan else pack (!sign x) (mag x)

/-- Binary32 addition (R251); an exact zero sum is `-0` only when both operands are negative (R253). -/
def add (x y : F32) : F32 :=
  if isNaN x || isNaN y then nan
  else if isInf x then (if isInf y && (sign x != sign y) then nan else x)
  else if isInf y then y
  else if val x + val y = 0 then pack (sign x && sign y) 0
  else pack (decide (val x + val y < 0)) (roundMag (val x + val y).natAbs 1)

/-- Binary32 subtraction (R251). -/
def sub (x y : F32) : F32 := add x (neg y)

/-- Binary32 multiplication (R251). -/
def mul (x y : F32) : F32 :=
  if isNaN x || isNaN y then nan
  else if isInf x || isInf y then (if isZero x || isZero y then nan else inf (sign x != sign y))
  else pack (sign x != sign y) (roundMag (units x * units y) (2 ^ 149))

/-- Binary32 division (R251): `x / 0` is an infinity, `0 / 0` and `inf / inf` are NaN. -/
def div (x y : F32) : F32 :=
  if isNaN x || isNaN y then nan
  else if isInf x then (if isInf y then nan else inf (sign x != sign y))
  else if isInf y then pack (sign x != sign y) 0
  else if isZero y then (if isZero x then nan else inf (sign x != sign y))
  else pack (sign x != sign y) (roundMag (units x * 2 ^ 149) (units y))

/-! ## Comparisons (R254): false with a NaN, `-0` equal to `+0` -/

/-- A signed key that orders the non-NaN patterns as their values. -/
def key (x : F32) : Int := if sign x then -(mag x : Int) else mag x

def lt (x y : F32) : Bool := !isNaN x && !isNaN y && decide (key x < key y)

def le (x y : F32) : Bool := !isNaN x && !isNaN y && decide (key x ≤ key y)

def gt (x y : F32) : Bool := lt y x

def ge (x y : F32) : Bool := le y x

def eq (x y : F32) : Bool := !isNaN x && !isNaN y && decide (key x = key y)

/-! ## Literals (R252) -/

def pos0 : F32 := 0x00000000#32
def c0_25 : F32 := 0x3E800000#32
def c0_4 : F32 := 0x3ECCCCCD#32
def c0_5 : F32 := 0x3F000000#32
def c0_6 : F32 := 0x3F19999A#32
def c0_75 : F32 := 0x3F400000#32
def one : F32 := 0x3F800000#32
def negOne : F32 := 0xBF800000#32
def c1_5 : F32 := 0x3FC00000#32
def two : F32 := 0x40000000#32
def four : F32 := 0x40800000#32
def five : F32 := 0x40A00000#32
def eight : F32 := 0x41000000#32
def thirty : F32 := 0x41F00000#32
def c69 : F32 := 0x428A0000#32
def c440 : F32 := 0x43DC0000#32
def c1000 : F32 := 0x447A0000#32
def c0_001 : F32 := 0x3A83126F#32
/-- 44100.0, the sample rate -/
def rate : F32 := 0x472C4400#32
/-- `DT`: the binary32 nearest to 1/44100 -/
def dt : F32 := 0x37BE37C6#32
/-- 1.059463, the semitone ratio as the source writes it -/
def semitone : F32 := 0x3F879C7C#32
/-- 2π -/
def twoPi : F32 := 0x40C90FDB#32
/-- 2^-31, the scale of the random generator (42_lfo.md R335) -/
def twoM31 : F32 := 0x30000000#32

/-! ## Primitives -/

/-- `fmax` by comparison (R256): `fmax(NaN, b) = b`. -/
def fmax (a b : F32) : F32 := if gt a b then a else b

/-- `fmin` by comparison (R256). -/
def fmin (a b : F32) : F32 := if lt a b then a else b

/-- `clamp` by comparison (R256): a NaN clamps to `lo`. -/
def clamp (x lo hi : F32) : F32 := if !ge x lo then lo else if gt x hi then hi else x

/-- The nearest binary32 of an integer, ties to even (R258). -/
def ofInt (n : Int) : F32 := pack (decide (n < 0)) (roundMag (n.natAbs * 2 ^ 149) 1)

/-- `to_f32` of an unsigned word (R258). -/
def ofU32 (w : U32) : F32 := ofInt w.toNat

/-- `to_f32(s32_of(w))` (R11, R258). -/
def ofS32 (w : U32) : F32 := ofInt w.toInt

/-- The integer `k` as a result of rounding `x` to integral: exact, a zero keeping the sign of `x` (R257). -/
def integral (x : F32) (k : Int) : F32 := if k = 0 then pack (sign x) 0 else ofInt k

/-- Round toward negative infinity (R257). -/
def floor (x : F32) : F32 :=
  if isNaN x then nan else if isInf x then x else integral x (val x / 2 ^ 149)

/-- Round toward positive infinity (R257). -/
def ceil (x : F32) : F32 :=
  if isNaN x then nan else if isInf x then x else integral x (-(-val x / 2 ^ 149))

/-- The guard of `wrap`: anything outside [0, 1) becomes `+0.0` (R259). -/
def wrapGuard (q : F32) : F32 := if ge q pos0 && lt q one then q else pos0

/-- Phase wrap: subtract the floor, guarded (R259). -/
def wrap (p : F32) : F32 := wrapGuard (sub p (floor p))

/-- A sample count in seconds (R260). -/
def sec (n : U32) : F32 := div (ofU32 n) rate

/-- Integer power by repeated multiplication from the left, `k ≥ 1` (R261); `ipow x 0` is not used and reads 1. -/
def ipow (x : F32) : Nat → F32
  | 0 => one
  | 1 => x
  | k + 2 => mul (ipow x (k + 1)) x

/-- `lerp(a, b, u) = a + ((b - a) * u)` (00_scope.md R15). -/
def lerp (a b u : F32) : F32 := add a (mul (sub b a) u)

end Sys2Proof.Machine.Fp
end

