-- ==== Sys2Proof/Machine/Functions.lean ====
section
/-! DEFINITION. The four open functions of 00_scope.md R9, each the raw constant of Config.lean wrapped so that
the constraints of 40_numerics.md R262 and R263 hold whatever the constant is, and so that any function meeting
them is an admitted value of the constant. Results are canonical NaNs where they are NaNs (R253). -/

namespace Sys2Proof.Machine

/-- A function result with its NaN made canonical (R253). -/
def canon (x : F32) : F32 := if Fp.isNaN x then Fp.nan else x

/-- A result held to [-1, 1]: a raw value outside it, which R263 forbids, reads as `1.0`. -/
def bounded (x : F32) : F32 := if Fp.mag x ≤ Fp.mag Fp.one then x else Fp.one

/-- A finite value that is a whole number. -/
def isWhole (x : F32) : Bool := Fp.isFinite x && decide (Fp.val x % 2 ^ 149 = 0)

/-- `FN_POW` with the special cases of R262 around a raw function. -/
def powWith (raw : F32 → F32 → F32) (x y : F32) : F32 :=
  if Fp.isZero y then Fp.one
  else if x = Fp.one then Fp.one
  else if Fp.isNaN x || Fp.isNaN y then Fp.nan
  else if Fp.isZero x then (if Fp.sign y then Fp.inf false else Fp.pos0)
  else if Fp.isFinite x && Fp.sign x && Fp.isFinite y && !isWhole y then Fp.nan
  else canon (raw x y)

/-- `FN_EXP` with the constraints of R263; `FN_EXP(-0.0) = 1.0` is what 44_ladder_filter.md R405 states. -/
def expWith (raw : F32 → F32) (x : F32) : F32 :=
  if Fp.isNaN x then Fp.nan
  else if Fp.isInf x then (if Fp.sign x then Fp.pos0 else Fp.inf false)
  else if x = 0x80000000#32 then Fp.one
  else canon (raw x)

/-- `FN_TANH` with the constraints of R263: odd, `±1` at the infinities, in [-1, 1]. -/
def tanhWith (raw : F32 → F32) (x : F32) : F32 :=
  if Fp.isNaN x then Fp.nan
  else
    let t := if Fp.isInf x then Fp.one else bounded (raw (Fp.pack false (Fp.mag x)))
    if Fp.sign x then Fp.neg t else t

/-- `FN_SIN` with the constraints of R263: NaN at the infinities, in [-1, 1] at finite operands. -/
def sinWith (raw : F32 → F32) (x : F32) : F32 :=
  if Fp.isNaN x || Fp.isInf x then Fp.nan else bounded (raw x)

/-- The functions the machine runs with: nothing is known of them but R262, R263 and R405. -/
def fns : Config.Fns :=
  { pow := powWith Config.rawPow, exp := expWith Config.rawExp,
    tanh := tanhWith Config.rawTanh, sin := sinWith Config.rawSin }

end Sys2Proof.Machine
end

