-- ==== Sys2Proof/Syntax.lean ====
section
/-! DEFINITION. The commands of the block (30_encoding.md R204: one constructor per row of opcode_table.json),
the opcodes, the enumerations the registers hold, and the names of the mapped registers (10_state.md). -/

namespace Sys2Proof

/-- The eight defined opcodes of R204. -/
inductive Opcode where
  | nop | noteOn | noteOff | render | cfgWrite | regRead | popOutput | renderScope
  deriving DecidableEq, Repr

/-- A command whose opcode is defined and whose reserved bits are zero, with its operand fields as R203 reads
them. The operand checks of R212 (address, key, oscillator, value) are made when the command executes, so an
illegal operand is still an `Instr`. -/
inductive Instr where
  /-- NOP (R500): padding. -/
  | nop
  /-- NOTE_ON (R430): channel, key, velocity pattern. -/
  | noteOn (ch : BitVec 8) (key : BitVec 8) (vel : F32)
  /-- NOTE_OFF (R440): channel, key. -/
  | noteOff (ch : BitVec 8) (key : BitVec 8)
  /-- RENDER (R470): sample count. -/
  | render (count : U32)
  /-- CFG_WRITE (R501): register address, data. -/
  | cfgWrite (addr : BitVec 16) (data : U32)
  /-- REG_READ (R502): register address. -/
  | regRead (addr : BitVec 16)
  /-- POP_OUTPUT (R504). -/
  | popOutput
  /-- RENDER_SCOPE (R505): oscillator index, sample count. -/
  | renderScope (osc : BitVec 8) (count : U32)
  deriving DecidableEq, Repr

/-- Polyphony modes (R53 MODE). -/
inductive Mode where
  | poly | arpeggio | portamento
  deriving DecidableEq, Repr

/-- Combine laws (R55 COMBINE). -/
inductive Law where
  | mix | mul | ring
  deriving DecidableEq, Repr

/-- LFO waveform shapes (R57 SHAPE). -/
inductive Shape where
  | square | saw | triangle | sine | random
  deriving DecidableEq, Repr

/-- Which of the two envelopes of a voice (R300). -/
inductive EnvSel where
  | amp | flt
  deriving DecidableEq, Repr

/-! ## Names of the mapped registers -/

/-- The global configuration registers 0x0000..0x000A (R53). -/
inductive GlobalReg where
  | mode | channel | filterDrive | filterCutoff | filterResonance | gainL | gainR | portaTime | pitchBend
  | prngA | prngB
  deriving DecidableEq, Repr

/-- The four fields of an envelope configuration (R54). -/
inductive EnvField where
  | attack | decay | sustain | release
  deriving DecidableEq, Repr

/-- The fields of an oscillator configuration block (R55). -/
inductive OscField where
  | octave | semitone | combine
  deriving DecidableEq, Repr

/-- The fields of an LFO configuration block (R57). -/
inductive LfoField where
  | delay | attack | magnitude | rate | base | shape | flags
  deriving DecidableEq, Repr

/-- The status and runtime registers 0x0800..0x0809 (R58). -/
inductive StatReg where
  | status | id | version | arpIndex | arpVoice | glideCur | glideTarget | glideRate | writeCursor | readCursor
  deriving DecidableEq, Repr

/-- The registers of one voice block (R60). -/
inductive VoiceReg where
  | key | vel | time | relTime | flags | savedAmp | savedFlt
  | fs (i : Fin 4)
  | fdly | fout
  | phase (o : OscIx)
  | prev (o : OscIx)
  | lfoPh (o : OscIx) (d : DestIx)
  deriving DecidableEq, Repr

/-- A mapped register of the register space (20_memory.md R151). -/
inductive Reg where
  | global (g : GlobalReg)
  | env (w : EnvSel) (f : EnvField)
  | osc (o : OscIx) (f : OscField)
  | lfo (o : OscIx) (d : DestIx) (f : LfoField)
  | stat (r : StatReg)
  | voice (v : Slot) (r : VoiceReg)
  deriving DecidableEq, Repr

/-- The access codes of 10_state.md. -/
inductive Access where
  | rw | ro | w1c
  deriving DecidableEq, Repr

/-- The four command errors of 60_exceptions.md (R550 to R553). -/
inductive CmdError where
  | opcode | reserved | address | value
  deriving DecidableEq, Repr

end Sys2Proof
end

