-- ==== Sys2Proof/Machine/Operands.lean ====
section
/-! DEFINITION. The operand forms of the commands: the register map that an ADDR field names (20_memory.md R151,
the tables of 10_state.md R53 to R60), each register's access code, and the legal sets of the operand values. -/

namespace Sys2Proof.Machine

/-! ## Addresses of the mapped registers -/

/-- Offset of a global register (R53). -/
def globalOff : GlobalReg → Nat
  | .mode => 0 | .channel => 1 | .filterDrive => 2 | .filterCutoff => 3 | .filterResonance => 4 | .gainL => 5
  | .gainR => 6 | .portaTime => 7 | .pitchBend => 8 | .prngA => 9 | .prngB => 10

/-- Offset of an envelope field in its block of four (R54). -/
def envOff : EnvField → Nat
  | .attack => 0 | .decay => 1 | .sustain => 2 | .release => 3

/-- Offset of an oscillator field in its block (R55). -/
def oscOff : OscField → Nat
  | .octave => 0 | .semitone => 1 | .combine => 2

/-- Offset of an LFO field in its block (R57). -/
def lfoOff : LfoField → Nat
  | .delay => 0 | .attack => 1 | .magnitude => 2 | .rate => 3 | .base => 4 | .shape => 5 | .flags => 6

/-- Offset of a status or runtime register from 0x0800 (R58). -/
def statOff : StatReg → Nat
  | .status => 0 | .id => 1 | .version => 2 | .arpIndex => 3 | .arpVoice => 4 | .glideCur => 5 | .glideTarget => 6
  | .glideRate => 7 | .writeCursor => 8 | .readCursor => 9

/-- Offset of a voice register in its block of 0x40 (R60). -/
def voiceOff : VoiceReg → Nat
  | .key => 0x00 | .vel => 0x01 | .time => 0x02 | .relTime => 0x03 | .flags => 0x04 | .savedAmp => 0x05
  | .savedFlt => 0x06 | .fs i => 0x07 + i.val | .fdly => 0x0B | .fout => 0x0C
  | .phase o => 0x10 + 0x08 * o.val | .prev o => 0x11 + 0x08 * o.val | .lfoPh o d => 0x12 + 0x08 * o.val + d.val

/-- The base `OB(o)` of oscillator `o`'s block (R55). -/
def oscBase (o : OscIx) : Nat := 0x0100 + 0x0080 * o.val

/-- The base `LB(o, d)` of an LFO block (R57). -/
def lfoBase (o : OscIx) (d : DestIx) : Nat := oscBase o + 0x10 + 0x10 * d.val

/-- The base `VB(v)` of a voice block (R60). -/
def voiceBase (v : Slot) : Nat := 0x1000 + 0x0040 * v.val

/-- The register address of a mapped register, as the tables of 10_state.md list it. -/
def regAddr : Reg → Nat
  | .global g => globalOff g
  | .env .amp f => 0x0010 + envOff f
  | .env .flt f => 0x0014 + envOff f
  | .osc o f => oscBase o + oscOff f
  | .lfo o d f => lfoBase o d + lfoOff f
  | .stat r => 0x0800 + statOff r
  | .voice v r => voiceBase v + voiceOff r

/-! ## What an address names: `none` where it is unmapped (R151) -/

def globalAt : Nat → Option GlobalReg
  | 0 => some .mode | 1 => some .channel | 2 => some .filterDrive | 3 => some .filterCutoff
  | 4 => some .filterResonance | 5 => some .gainL | 6 => some .gainR | 7 => some .portaTime
  | 8 => some .pitchBend | 9 => some .prngA | 10 => some .prngB | _ => none

def envAt : Nat → Option (EnvSel × EnvField)
  | 0 => some (.amp, .attack) | 1 => some (.amp, .decay) | 2 => some (.amp, .sustain) | 3 => some (.amp, .release)
  | 4 => some (.flt, .attack) | 5 => some (.flt, .decay) | 6 => some (.flt, .sustain) | 7 => some (.flt, .release)
  | _ => none

def oscFieldAt : Nat → Option OscField
  | 0 => some .octave | 1 => some .semitone | 2 => some .combine | _ => none

def lfoFieldAt : Nat → Option LfoField
  | 0 => some .delay | 1 => some .attack | 2 => some .magnitude | 3 => some .rate | 4 => some .base
  | 5 => some .shape | 6 => some .flags | _ => none

def statAt : Nat → Option StatReg
  | 0 => some .status | 1 => some .id | 2 => some .version | 3 => some .arpIndex | 4 => some .arpVoice
  | 5 => some .glideCur | 6 => some .glideTarget | 7 => some .glideRate | 8 => some .writeCursor
  | 9 => some .readCursor | _ => none

def destAt : Nat → Option DestIx
  | 0 => some 0 | 1 => some 1 | 2 => some 2 | 3 => some 3 | 4 => some 4 | 5 => some 5 | _ => none

/-- The oscillator transient registers at VB+0x10+0x08*o (R60). -/
def voiceOscAt (o : OscIx) : Nat → Option VoiceReg
  | 0 => some (.phase o)
  | 1 => some (.prev o)
  | n + 2 => (destAt n).map (.lfoPh o)

def voiceAt (n : Nat) : Option VoiceReg :=
  match n with
  | 0x00 => some .key | 0x01 => some .vel | 0x02 => some .time | 0x03 => some .relTime | 0x04 => some .flags
  | 0x05 => some .savedAmp | 0x06 => some .savedFlt | 0x07 => some (.fs 0) | 0x08 => some (.fs 1)
  | 0x09 => some (.fs 2) | 0x0A => some (.fs 3) | 0x0B => some .fdly | 0x0C => some .fout
  | n =>
    if 0x10 ≤ n ∧ n < 0x18 then voiceOscAt 0 (n - 0x10)
    else if 0x18 ≤ n ∧ n < 0x20 then voiceOscAt 1 (n - 0x18)
    else none

/-- Offset `n` of oscillator `o`'s block: its own fields, or one of its six LFO blocks (R55, R57). -/
def oscBlockAt (o : OscIx) (n : Nat) : Option Reg :=
  if n < 0x10 then (oscFieldAt n).map (.osc o)
  else (destAt (n / 0x10 - 1)).bind fun d => (lfoFieldAt (n % 0x10)).map (.lfo o d)

def slotAt : Nat → Option Slot := destAt

/-- The register at address `n`, or `none` where `n` is unmapped (R151). -/
def regAt (n : Nat) : Option Reg :=
  if n < 0x10 then (globalAt n).map .global
  else if n < 0x20 then (envAt (n - 0x10)).map fun p => .env p.1 p.2
  else if 0x0100 ≤ n ∧ n < 0x0180 then oscBlockAt 0 (n - 0x0100)
  else if 0x0180 ≤ n ∧ n < 0x0200 then oscBlockAt 1 (n - 0x0180)
  else if 0x0800 ≤ n ∧ n < 0x0810 then (statAt (n - 0x0800)).map .stat
  else if 0x1000 ≤ n then
    (slotAt ((n - 0x1000) / 0x40)).bind fun v => (voiceAt ((n - 0x1000) % 0x40)).map (.voice v)
  else none

/-- The register an ADDR field names (R203). -/
def regOfAddr (a : BitVec 16) : Option Reg := regAt a.toNat

/-- The access code of a register: STATUS is W1C, the other status and runtime registers and every voice
register are RO, the rest RW (R53 to R60). -/
def access : Reg → Access
  | .stat .status => .w1c
  | .stat _ => .ro
  | .voice _ _ => .ro
  | _ => .rw

/-! ## Enumerated values -/

def modeCode : Mode → U32
  | .poly => 0 | .arpeggio => 1 | .portamento => 2

def modeOf (w : U32) : Option Mode :=
  if w = 0 then some .poly else if w = 1 then some .arpeggio else if w = 2 then some .portamento else none

def lawCode : Law → U32
  | .mix => 0 | .mul => 1 | .ring => 2

def lawOf (w : U32) : Option Law :=
  if w = 0 then some .mix else if w = 1 then some .mul else if w = 2 then some .ring else none

def shapeCode : Shape → U32
  | .square => 0 | .saw => 1 | .triangle => 2 | .sine => 3 | .random => 4

def shapeOf (w : U32) : Option Shape :=
  if w = 0 then some .square else if w = 1 then some .saw else if w = 2 then some .triangle
  else if w = 3 then some .sine else if w = 4 then some .random else none

/-- `legal(a, w)` of R501: every pattern at an f32, s32 or u32 register, the legal set at an enumerated or bit
register. -/
def legal (r : Reg) (w : U32) : Bool :=
  match r with
  | .global .mode => decide (w.toNat ≤ 2)
  | .global .channel => decide (w.toNat ≤ 0xFF)
  | .osc _ .combine => decide (w.toNat ≤ 2)
  | .lfo _ _ .shape => decide (w.toNat ≤ 4)
  | .lfo _ _ .flags => decide (w.toNat ≤ 3)
  | _ => true

/-- KEY is legal in 0..127 (R203). -/
def keyLegal (key : BitVec 8) : Bool := decide (key.toNat ≤ 127)

/-- The oscillator an OSC field names: legal 0..1 (R203). -/
def oscOf (o : BitVec 8) : Option OscIx :=
  if o = 0 then some 0 else if o = 1 then some 1 else none

/-- What the operand checks (3) and (4) of R212 say of a command: the error it raises, if any. -/
def operandError : Instr → Option CmdError
  | .noteOn _ key _ => if keyLegal key then none else some .value
  | .noteOff _ key => if keyLegal key then none else some .value
  | .cfgWrite a w =>
    match regOfAddr a with
    | none => some .address
    | some r => if access r = .ro then some .address else if legal r w then none else some .value
  | .regRead a => if (regOfAddr a).isSome then none else some .address
  | .renderScope o _ => if (oscOf o).isSome then none else some .value
  | .nop => none
  | .render _ => none
  | .popOutput => none

end Sys2Proof.Machine
end

