-- ==== Sys2Proof/WellFormed.lean ====
section
/-! DEFINITION. A well-formed command: one that passes the operand checks (3) and (4) of 30_encoding.md R212. The
checks (1) and (2), opcode and reserved bits, are the decoder's: an `Instr` has no reserved bits. -/

namespace Sys2Proof

/-- The command passes every operand check of R212 and so "executes by its rule". -/
def Instr.wellFormed (i : Instr) : Bool := decide (Machine.operandError i = none)

end Sys2Proof
end

