-- ==== Sys2Proof/Decode.lean ====
section
/-! DEFINITION. Decoding and encoding of command words: the formats of 30_encoding.md R202 and R203, the exact
patterns of R205, and the first two checks of R212 in their order. -/

namespace Sys2Proof

/-- What a command word decodes to (R212, checks 1 and 2). -/
inductive Decoded where
  /-- The word is a command with zero reserved bits. -/
  | instr (i : Instr)
  /-- The opcode byte is in 0x08..0xFF (R211). -/
  | reservedOpcode
  /-- A reserved-zero bit of a defined command is 1 (R210); `count` is `cmd[31:0]`, which R557 still reads. -/
  | reservedBits (op : Opcode) (count : U32)
  deriving DecidableEq, Repr

/-- `OP = cmd[63:56]` (R200). -/
def opByte (w : Cmd) : BitVec 8 := w.extractLsb' 56 8

/-- `cmd[55:48]`: CH or OSC (R203). -/
def fieldHi (w : Cmd) : BitVec 8 := w.extractLsb' 48 8

/-- `cmd[47:40]`: KEY (R203). -/
def fieldKey (w : Cmd) : BitVec 8 := w.extractLsb' 40 8

/-- `cmd[47:32]`: ADDR (R203). -/
def fieldAddr (w : Cmd) : BitVec 16 := w.extractLsb' 32 16

/-- `cmd[31:0]`: VEL, COUNT or DATA (R203). -/
def fieldLow (w : Cmd) : U32 := w.extractLsb' 0 32

/-- The opcode map of R204. -/
def opcodeOf (b : BitVec 8) : Option Opcode :=
  if b = 0x00#8 then some .nop
  else if b = 0x01#8 then some .noteOn
  else if b = 0x02#8 then some .noteOff
  else if b = 0x03#8 then some .render
  else if b = 0x04#8 then some .cfgWrite
  else if b = 0x05#8 then some .regRead
  else if b = 0x06#8 then some .popOutput
  else if b = 0x07#8 then some .renderScope
  else none

/-- The match column of R205. -/
def opMatch : Opcode → Cmd
  | .nop => 0x0000000000000000#64
  | .noteOn => 0x0100000000000000#64
  | .noteOff => 0x0200000000000000#64
  | .render => 0x0300000000000000#64
  | .cfgWrite => 0x0400000000000000#64
  | .regRead => 0x0500000000000000#64
  | .popOutput => 0x0600000000000000#64
  | .renderScope => 0x0700000000000000#64

/-- The mask of OP and reserved bits of R205. -/
def opMask : Opcode → Cmd
  | .nop => 0xFFFFFFFFFFFFFFFF#64
  | .noteOn => 0xFF0000FF00000000#64
  | .noteOff => 0xFF0000FFFFFFFFFF#64
  | .render => 0xFFFFFFFF00000000#64
  | .cfgWrite => 0xFFFF000000000000#64
  | .regRead => 0xFFFF0000FFFFFFFF#64
  | .popOutput => 0xFFFFFFFFFFFFFFFF#64
  | .renderScope => 0xFF00FFFF00000000#64

/-- The operand fields of a word of a given opcode (R202, R203). -/
def operands (op : Opcode) (w : Cmd) : Instr :=
  match op with
  | .nop => .nop
  | .noteOn => .noteOn (fieldHi w) (fieldKey w) (fieldLow w)
  | .noteOff => .noteOff (fieldHi w) (fieldKey w)
  | .render => .render (fieldLow w)
  | .cfgWrite => .cfgWrite (fieldAddr w) (fieldLow w)
  | .regRead => .regRead (fieldAddr w)
  | .popOutput => .popOutput
  | .renderScope => .renderScope (fieldHi w) (fieldLow w)

/-- Decode one command word: the opcode first, then the reserved bits (R212). No state changes how a word
decodes (R213). -/
def decode (w : Cmd) : Decoded :=
  match opcodeOf (opByte w) with
  | none => .reservedOpcode
  | some op => if w &&& opMask op = opMatch op then .instr (operands op w) else .reservedBits op (fieldLow w)

/-- The word of a command, laid out from the formats Z, N, C and R of R202 (reserved fields zero). -/
def encode : Instr → Cmd
  | .nop => 0x00#8 ++ 0#56
  | .noteOn ch key vel => 0x01#8 ++ ch ++ key ++ 0#8 ++ vel
  | .noteOff ch key => 0x02#8 ++ ch ++ key ++ 0#8 ++ 0#32
  | .render count => 0x03#8 ++ 0#8 ++ 0#16 ++ count
  | .cfgWrite addr data => 0x04#8 ++ 0#8 ++ addr ++ data
  | .regRead addr => 0x05#8 ++ 0#8 ++ addr ++ 0#32
  | .popOutput => 0x06#8 ++ 0#56
  | .renderScope osc count => 0x07#8 ++ osc ++ 0#16 ++ count

/-- The opcode of a command (R204). -/
def opcodeOfInstr : Instr → Opcode
  | .nop => .nop
  | .noteOn .. => .noteOn
  | .noteOff .. => .noteOff
  | .render .. => .render
  | .cfgWrite .. => .cfgWrite
  | .regRead .. => .regRead
  | .popOutput => .popOutput
  | .renderScope .. => .renderScope

/-- How many response words a command of this opcode gives, on success and on error alike (R557); `count` is
`cmd[31:0]`. -/
def responseCount (op : Opcode) (count : U32) : Nat :=
  match op with
  | .regRead => 1
  | .popOutput => 2
  | .renderScope => count.toNat
  | .nop => 0
  | .noteOn => 0
  | .noteOff => 0
  | .render => 0
  | .cfgWrite => 0

/-- The host's reading of an opcode-table word: the table numbers the bits of the one 64-bit command word as the
spec does, bit 0 least significant (R10); bits above `nbits` are 0. -/
def decodeTableWord (nbits w : Nat) : Option Instr :=
  match decode (BitVec.ofNat 64 (w % 2 ^ nbits)) with
  | .instr i => some i
  | .reservedOpcode => none
  | .reservedBits _ _ => none

end Sys2Proof
end

