-- ==== Sys2Proof/Machine/State.lean ====
section
/-! DEFINITION. Everything the spec gives the machine, as plain data: the registers of 10_state.md (R52 to R60),
the output ring buffer (20_memory.md R160), the two port FIFOs (R90), a command waiting in `Respond` (R14, R611),
and the far side of the two ports (R177). -/

namespace Sys2Proof.Machine

/-! ## Configuration registers -/

/-- An envelope configuration (R54). -/
structure EnvCfg where
  attack  : F32
  decay   : F32
  sustain : F32
  release : F32
  deriving DecidableEq, Repr

/-- An LFO configuration (R57). `rate` is stored and read back and no rule reads it (R334). -/
structure LfoCfg where
  delay        : F32
  attack       : F32
  magnitude    : F32
  rate         : F32
  base         : F32
  shape        : Shape
  noteSync     : Bool
  zeroCentered : Bool
  deriving DecidableEq, Repr

/-- An oscillator configuration (R55) with its six LFOs by destination (R56). -/
structure OscCfg where
  octave   : U32
  semitone : U32
  combine  : Law
  lfo      : Vector LfoCfg 6
  deriving DecidableEq, Repr

/-- The InstrumentConfig (R52): the global registers of R53 but for the generator words, the two envelopes of
R54 and the two oscillators of R55. -/
structure Cfg where
  mode            : Mode
  channel         : BitVec 8
  filterDrive     : F32
  filterCutoff    : F32
  filterResonance : F32
  gainL           : F32
  gainR           : F32
  portaTime       : F32
  pitchBend       : F32
  amp             : EnvCfg
  flt             : EnvCfg
  osc             : Vector OscCfg 2
  deriving DecidableEq, Repr

/-- The shared random generator's two words (R53 PRNG_A and PRNG_B, R335). -/
structure Prng where
  a : U32
  b : U32
  deriving DecidableEq, Repr

/-- The portamento glide state (R58 GLIDE_CUR, GLIDE_TARGET, GLIDE_RATE). -/
structure Glide where
  cur    : F32
  target : F32
  rate   : F32
  deriving DecidableEq, Repr

/-! ## Voice state (R59, R60) -/

/-- An oscillator transient: phase cursor, previous smoothed sample, six LFO phase cursors. -/
structure OscState where
  phase : F32
  prev  : F32
  lfoPh : Vector F32 6
  deriving DecidableEq, Repr

/-- A ladder filter's state: four stages, the feedback-delay value, the running output (R400). -/
structure FilterState where
  fs0  : F32
  fs1  : F32
  fs2  : F32
  fs3  : F32
  fdly : F32
  fout : F32
  deriving DecidableEq, Repr

/-- One voice record. -/
structure Voice where
  key      : BitVec 8
  vel      : F32
  time     : U32
  relTime  : U32
  alive    : Bool
  died     : Bool
  savedAmp : F32
  savedFlt : F32
  filter   : FilterState
  osc      : Vector OscState 2
  deriving DecidableEq, Repr

/-! ## The output ring buffer (R160) -/

/-- One stereo frame. -/
structure Frame where
  l : F32
  r : F32
  deriving DecidableEq, Repr

/-- What a frame that no RENDER has written holds: `(+0.0, +0.0)` (R91). -/
def Frame.blank : Frame := ⟨0#32, 0#32⟩

/-- The buffer's frames, sparse: only frames that differ from the reset contents are listed, indices rising. -/
abbrev Memory := List (Nat × Frame)

/-- The canonical form: indices strictly rising and below 44100, no frame equal to what an unlisted one reads as.
Equal buffers are then equal lists. -/
abbrev Memory.wf (m : Memory) : Prop :=
  m.Pairwise (fun p q => p.1 < q.1) ∧ ∀ p ∈ m, p.1 < 44100 ∧ p.2 ≠ Frame.blank

/-! ## The ports -/

/-- What a command still has to do once its response words are in the FIFO (R504: POP_OUTPUT advances the read
cursor after its two responses). -/
inductive AfterRsp where
  | nothing
  | advanceRead
  deriving DecidableEq, Repr

/-- A command in `Respond` (R14): the words it still has to append, and what follows them. -/
structure InFlight where
  words : List U32
  after : AfterRsp
  deriving DecidableEq, Repr

/-- What the host may do at the ports (R177) and at the reset input (R600). `pass` lets the block move. -/
inductive PortEvent where
  | push (cmd : Cmd)
  | pop
  | reset
  | pass
  deriving DecidableEq, Repr

/-- The far side of the ports: what the host does next, in order, and the response words it has popped. -/
structure Port where
  agenda   : List PortEvent
  received : List U32
  deriving DecidableEq, Repr

/-! ## The machine -/

/-- The whole state. ID and VERSION are constants (R58) and live in the register read; LFO, envelope and
oscillator configuration live in `cfg`. -/
structure State where
  cfg         : Cfg
  prng        : Prng
  status      : BitVec 4
  arpIndex    : Fin 12
  arpVoice    : Slot
  glide       : Glide
  writeCursor : Cursor
  readCursor  : Cursor
  voices      : Vector Voice 6
  buf         : Memory
  cmdFifo     : List Cmd
  rspFifo     : List U32
  inFlight    : Option InFlight
  port        : Port
  deriving DecidableEq, Repr

/-- The reasons a step can stop with a fault: there are none. The block has no traps (R560), no numeric
condition is an error (R264) and a malformed command only sets a STATUS bit (R556), so no constructor exists. -/
inductive Fault where
  deriving DecidableEq, Repr

/-- The reasons a step can be refused. -/
inductive Refusal where
  /-- Raised by `exec`'s arm of an instruction that has no meaning yet. No arm raises it now: every command has
  its meaning. Safe: a refused step proves nothing about the hardware. -/
  | notModelled (mnemonic : String)
  deriving DecidableEq, Repr

/-! ## Reset (R600) -/

/-- Envelope registers at reset (R54). -/
def EnvCfg.reset : EnvCfg := ⟨0#32, 0#32, 0#32, 0#32⟩

/-- LFO registers at reset (R57). -/
def LfoCfg.reset : LfoCfg := ⟨0#32, 0#32, 0#32, 0#32, 0#32, .square, false, false⟩

/-- Oscillator registers at reset (R55). -/
def OscCfg.reset : OscCfg := ⟨0#32, 0#32, .mix, vec6 fun _ => LfoCfg.reset⟩

/-- The configuration at reset (R53 to R57). -/
def Cfg.reset : Cfg :=
  { mode := .poly, channel := 0#8, filterDrive := 0#32, filterCutoff := 0#32, filterResonance := 0#32,
    gainL := 0#32, gainR := 0#32, portaTime := 0#32, pitchBend := 0#32,
    amp := EnvCfg.reset, flt := EnvCfg.reset, osc := vec2 fun _ => OscCfg.reset }

/-- The generator's reset seeds (R53). -/
def Prng.reset : Prng := ⟨0x6A09E667#32, 0xBB67AE85#32⟩

/-- An oscillator transient at reset (R60). -/
def OscState.reset : OscState := ⟨0#32, 0#32, vec6 fun _ => 0#32⟩

/-- A filter at reset (R60). -/
def FilterState.reset : FilterState := ⟨0#32, 0#32, 0#32, 0#32, 0#32, 0#32⟩

/-- A voice at reset: KEY 0xFF, never triggered (R60). -/
def Voice.reset : Voice :=
  { key := 0xFF#8, vel := 0#32, time := 0#32, relTime := 0#32, alive := false, died := false,
    savedAmp := 0#32, savedFlt := 0#32, filter := FilterState.reset, osc := vec2 fun _ => OscState.reset }

/-- The machine when reset is released (R600): no state is unspecified, both FIFOs are empty. -/
def State.reset : State :=
  { cfg := Cfg.reset, prng := Prng.reset, status := 0#4, arpIndex := 0, arpVoice := 0,
    glide := ⟨0#32, 0#32, 0#32⟩, writeCursor := 0, readCursor := 0, voices := vec6 fun _ => Voice.reset,
    buf := [], cmdFifo := [], rspFifo := [], inFlight := none, port := ⟨[], []⟩ }

/-! ## Named updates, one per field of State -/

def State.setCfg (s : State) (x : Cfg) : State := { s with cfg := x }
def State.setPrng (s : State) (x : Prng) : State := { s with prng := x }
def State.setStatus (s : State) (x : BitVec 4) : State := { s with status := x }
def State.setArp (s : State) (i : Fin 12) (v : Slot) : State := { s with arpIndex := i, arpVoice := v }
def State.setGlide (s : State) (x : Glide) : State := { s with glide := x }
def State.setWriteCursor (s : State) (x : Cursor) : State := { s with writeCursor := x }
def State.setReadCursor (s : State) (x : Cursor) : State := { s with readCursor := x }
def State.setVoice (s : State) (v : Slot) (x : Voice) : State := { s with voices := s.voices.set v x }
def State.setBuf (s : State) (x : Memory) : State := { s with buf := x }
def State.setCmdFifo (s : State) (x : List Cmd) : State := { s with cmdFifo := x }
def State.setRspFifo (s : State) (x : List U32) : State := { s with rspFifo := x }
def State.setInFlight (s : State) (x : Option InFlight) : State := { s with inFlight := x }
def State.setPort (s : State) (x : Port) : State := { s with port := x }

/-- Voice `v` of the pool. -/
def State.voice (s : State) (v : Slot) : Voice := s.voices[v]

end Sys2Proof.Machine
end

