-- ==== Sys2Proof/Machine/Flags.lean ====
section
/-! DEFINITION. The flags of the block (10_state.md R62): the four sticky STATUS bits and each voice's ALIVE and
DIED. There are no arithmetic condition codes. -/

namespace Sys2Proof.Machine

/-- The STATUS bit of an error: E_OPCODE 0, E_RESERVED 1, E_ADDRESS 2, E_VALUE 3 (R58). -/
def errorMask : CmdError → BitVec 4
  | .opcode => 1#4
  | .reserved => 2#4
  | .address => 4#4
  | .value => 8#4

/-- Raising an error sets its sticky bit and keeps the others (R554). -/
def statusRaise (e : CmdError) (st : BitVec 4) : BitVec 4 := st ||| errorMask e

/-- Write one to clear: each bit of `w[3:0]` written as 1 is cleared, bits 31:4 are ignored (R503). -/
def statusW1C (w : U32) (st : BitVec 4) : BitVec 4 := st &&& ~~~(w.setWidth 4)

/-- One flag bit of a packed register. -/
def flagBit (b : Bool) (i : Nat) : U32 := if b then BitVec.ofNat 32 (2 ^ i) else 0#32

/-- V[v].FLAGS: ALIVE in bit 0, DIED in bit 1 (R60). -/
def voiceFlags (v : Voice) : U32 := flagBit v.alive 0 ||| flagBit v.died 1

/-- LFO FLAGS: NOTE_SYNC in bit 0, ZERO_CENTERED in bit 1 (R57). -/
def lfoFlags (l : LfoCfg) : U32 := flagBit l.noteSync 0 ||| flagBit l.zeroCentered 1

end Sys2Proof.Machine
end

