-- ==== Sys2Proof/Machine/Ops.lean ====
section
/-! DEFINITION. The shared operations of the commands: the output ring buffer, the ports, raising a command error
(the block's only exception mechanism, 60_exceptions.md), and reading and writing a register. -/

namespace Sys2Proof.Machine

/-- The six slots in the order every rule visits them. -/
def allSlots : List Slot := [0, 1, 2, 3, 4, 5]

/-! ## The output ring buffer (R160 to R162) -/

/-- `BUF[i]`; a frame never written reads `(+0.0, +0.0)` (R91, R162). -/
def Memory.read : Memory → Nat → Frame
  | [], _ => Frame.blank
  | (k, f) :: m, i => if k = i then f else Memory.read m i

/-- `BUF[i] <- f`, keeping the canonical form: writing the reset contents removes the entry. -/
def Memory.write : Memory → Nat → Frame → Memory
  | [], i, f => if f = Frame.blank then [] else [(i, f)]
  | (k, g) :: m, i, f =>
    if i < k then (if f = Frame.blank then (k, g) :: m else (i, f) :: (k, g) :: m)
    else if i = k then (if f = Frame.blank then m else (i, f) :: m)
    else (k, g) :: Memory.write m i f

/-- A cursor advanced by one frame, modulo 44100 (R161, R162). -/
def nextCursor (c : Cursor) : Cursor := ⟨(c.val + 1) % 44100, Nat.mod_lt _ (by decide)⟩

/-- Write one frame at the write cursor and advance it; the read cursor is neither checked nor changed (R161). -/
def pushFrame (f : Frame) (s : State) : State :=
  (s.setBuf (Memory.write s.buf s.writeCursor.val f)).setWriteCursor (nextCursor s.writeCursor)

/-! ## Responses (R14, R611) -/

/-- `Respond` for each word in turn: a word is appended while the response FIFO has room; the first that finds it
full waits, and those after it wait behind it. Answers the FIFO and the words still waiting. -/
def deliver : List U32 → List U32 → List U32 × List U32
  | [], q => (q, [])
  | w :: ws, q => if q.length < Config.rspFifoDepth then deliver ws (q ++ [w]) else (q, w :: ws)

/-- What a command does after its last response. -/
def finish (a : AfterRsp) (s : State) : State :=
  match a with
  | .nothing => s
  | .advanceRead => s.setReadCursor (nextCursor s.readCursor)

/-- Append as many waiting words as fit; when none is left the command completes (R611: nothing is lost). -/
def drain (s : State) : State :=
  match s.inFlight with
  | none => s
  | some p =>
    match deliver p.words s.rspFifo with
    | (q, []) => finish p.after ((s.setRspFifo q).setInFlight none)
    | (q, w :: ws) => (s.setRspFifo q).setInFlight (some ⟨w :: ws, p.after⟩)

/-- Respond with `ws` in order, then do `a`. While a word waits the command stays in flight. -/
def respond (ws : List U32) (a : AfterRsp) (s : State) : State := drain (s.setInFlight (some ⟨ws, a⟩))

/-! ## Raising a command error (R554 to R557) -/

/-- `raise CmdError(e)`: set the sticky bit, give the `n` zero words that the command would have responded with, and
change nothing else. Execution goes on with the next command. -/
def raiseCmdError (e : CmdError) (n : Nat) (s : State) : State :=
  respond (List.replicate n 0#32) .nothing (s.setStatus (statusRaise e s.status))

/-- What a word that fails decoding does: a reserved opcode gives no response (R550), a reserved bit gives the
zero words of its opcode (R551, R557). -/
def rejectWord (d : Decoded) (s : State) : State :=
  match d with
  | .instr _ => s
  | .reservedOpcode => raiseCmdError .opcode 0 s
  | .reservedBits op count => raiseCmdError .reserved (responseCount op count) s

/-! ## Reading a register (R502) -/

def readGlobal (g : GlobalReg) (s : State) : U32 :=
  match g with
  | .mode => modeCode s.cfg.mode
  | .channel => s.cfg.channel.setWidth 32
  | .filterDrive => s.cfg.filterDrive
  | .filterCutoff => s.cfg.filterCutoff
  | .filterResonance => s.cfg.filterResonance
  | .gainL => s.cfg.gainL
  | .gainR => s.cfg.gainR
  | .portaTime => s.cfg.portaTime
  | .pitchBend => s.cfg.pitchBend
  | .prngA => s.prng.a
  | .prngB => s.prng.b

/-- The envelope configuration a selector names (R300). -/
def envCfg (c : Cfg) : EnvSel → EnvCfg
  | .amp => c.amp
  | .flt => c.flt

def readEnv (f : EnvField) (e : EnvCfg) : U32 :=
  match f with
  | .attack => e.attack
  | .decay => e.decay
  | .sustain => e.sustain
  | .release => e.release

def readOsc (f : OscField) (o : OscCfg) : U32 :=
  match f with
  | .octave => o.octave
  | .semitone => o.semitone
  | .combine => lawCode o.combine

def readLfo (f : LfoField) (l : LfoCfg) : U32 :=
  match f with
  | .delay => l.delay
  | .attack => l.attack
  | .magnitude => l.magnitude
  | .rate => l.rate
  | .base => l.base
  | .shape => shapeCode l.shape
  | .flags => lfoFlags l

def readStat (r : StatReg) (s : State) : U32 :=
  match r with
  | .status => s.status.setWidth 32
  | .id => 0x50534F43#32
  | .version => 0x00000001#32
  | .arpIndex => BitVec.ofNat 32 s.arpIndex.val
  | .arpVoice => BitVec.ofNat 32 s.arpVoice.val
  | .glideCur => s.glide.cur
  | .glideTarget => s.glide.target
  | .glideRate => s.glide.rate
  | .writeCursor => BitVec.ofNat 32 s.writeCursor.val
  | .readCursor => BitVec.ofNat 32 s.readCursor.val

/-- The filter stage value `FS[i]` (R60). -/
def stage (f : FilterState) (i : Fin 4) : F32 :=
  if i = 0 then f.fs0 else if i = 1 then f.fs1 else if i = 2 then f.fs2 else f.fs3

def readVoice (r : VoiceReg) (v : Voice) : U32 :=
  match r with
  | .key => v.key.setWidth 32
  | .vel => v.vel
  | .time => v.time
  | .relTime => v.relTime
  | .flags => voiceFlags v
  | .savedAmp => v.savedAmp
  | .savedFlt => v.savedFlt
  | .fs i => stage v.filter i
  | .fdly => v.filter.fdly
  | .fout => v.filter.fout
  | .phase o => v.osc[o].phase
  | .prev o => v.osc[o].prev
  | .lfoPh o d => v.osc[o].lfoPh[d]

/-- `REG[a]` for a mapped register: its 32-bit pattern, unused bits 0 (R502). -/
def readReg (r : Reg) (s : State) : U32 :=
  match r with
  | .global g => readGlobal g s
  | .env w f => readEnv f (envCfg s.cfg w)
  | .osc o f => readOsc f s.cfg.osc[o]
  | .lfo o d f => readLfo f s.cfg.osc[o].lfo[d]
  | .stat r => readStat r s
  | .voice v r => readVoice r (s.voice v)

/-! ## Writing a register (R501, R503) -/

def writeGlobal (g : GlobalReg) (w : U32) (s : State) : State :=
  match g with
  | .mode => match modeOf w with
    | some m => s.setCfg { s.cfg with mode := m }
    | none => s
  | .channel => s.setCfg { s.cfg with channel := w.setWidth 8 }
  | .filterDrive => s.setCfg { s.cfg with filterDrive := w }
  | .filterCutoff => s.setCfg { s.cfg with filterCutoff := w }
  | .filterResonance => s.setCfg { s.cfg with filterResonance := w }
  | .gainL => s.setCfg { s.cfg with gainL := w }
  | .gainR => s.setCfg { s.cfg with gainR := w }
  | .portaTime => s.setCfg { s.cfg with portaTime := w }
  | .pitchBend => s.setCfg { s.cfg with pitchBend := w }
  | .prngA => s.setPrng { s.prng with a := w }
  | .prngB => s.setPrng { s.prng with b := w }

def writeEnv (f : EnvField) (w : U32) (e : EnvCfg) : EnvCfg :=
  match f with
  | .attack => { e with attack := w }
  | .decay => { e with decay := w }
  | .sustain => { e with sustain := w }
  | .release => { e with release := w }

def writeOsc (f : OscField) (w : U32) (o : OscCfg) : OscCfg :=
  match f with
  | .octave => { o with octave := w }
  | .semitone => { o with semitone := w }
  | .combine => match lawOf w with
    | some l => { o with combine := l }
    | none => o

def writeLfo (f : LfoField) (w : U32) (l : LfoCfg) : LfoCfg :=
  match f with
  | .delay => { l with delay := w }
  | .attack => { l with attack := w }
  | .magnitude => { l with magnitude := w }
  | .rate => { l with rate := w }
  | .base => { l with base := w }
  | .shape => match shapeOf w with
    | some sh => { l with shape := sh }
    | none => l
  | .flags => { l with noteSync := w.getLsbD 0, zeroCentered := w.getLsbD 1 }

/-- The configuration with oscillator `o`'s block replaced. -/
def setOsc (c : Cfg) (o : OscIx) (x : OscCfg) : Cfg := { c with osc := c.osc.set o x }

/-- `REG[r] <- w`: an RW register takes the value, STATUS clears the bits written as 1, a RO register is not
written (R501 raises E_ADDRESS before it gets here). An illegal value leaves the register (R553). -/
def writeReg (r : Reg) (w : U32) (s : State) : State :=
  match r with
  | .global g => writeGlobal g w s
  | .env .amp f => s.setCfg { s.cfg with amp := writeEnv f w s.cfg.amp }
  | .env .flt f => s.setCfg { s.cfg with flt := writeEnv f w s.cfg.flt }
  | .osc o f => s.setCfg (setOsc s.cfg o (writeOsc f w s.cfg.osc[o]))
  | .lfo o d f =>
    s.setCfg (setOsc s.cfg o { s.cfg.osc[o] with lfo := s.cfg.osc[o].lfo.set d (writeLfo f w s.cfg.osc[o].lfo[d]) })
  | .stat .status => s.setStatus (statusW1C w s.status)
  | .stat _ => s
  | .voice _ _ => s

end Sys2Proof.Machine
end

