-- ==== Sys2Proof/Machine/Lfo.lean ====
section
/-! DEFINITION. The LFO modulator and the shared random generator (42_lfo.md R330 to R338). RATE is not read
(R334). -/

namespace Sys2Proof.Machine

/-- One advance of the generator: `B ^= A; A += B` (R335). -/
def prngNext (g : Prng) : Prng := ⟨g.a + (g.b ^^^ g.a), g.b ^^^ g.a⟩

/-- The generator's output: `A` as a signed integer, scaled by 2^-31 (R335). -/
def prngOut (g : Prng) : F32 := Fp.mul (Fp.ofS32 g.a) Fp.twoM31

/-- `wave(shape, p)` (R332), with the generator as it is left. -/
def wave (F : Config.Fns) (sh : Shape) (p : F32) (g : Prng) : F32 × Prng :=
  match sh with
  | .square => (if Fp.lt p Fp.c0_5 then Fp.one else Fp.negOne, g)
  | .saw => (Fp.sub Fp.one (Fp.mul Fp.two p), g)
  | .triangle =>
    (if Fp.lt p Fp.c0_25 then Fp.mul Fp.four p
     else if Fp.lt p Fp.c0_75 then Fp.sub Fp.two (Fp.mul Fp.four p)
     else Fp.sub (Fp.mul Fp.four p) Fp.four, g)
  | .sine => (F.sin (Fp.mul Fp.twoPi p), g)
  | .random => (prngOut (prngNext g), prngNext g)

/-- The running branch of R330 from a waveform value `w`: magnitude, fade-in, base, DC offset. -/
def lfoRunning (l : LfoCfg) (nt w : F32) : F32 :=
  let x := Fp.mul w l.magnitude
  let x := if Fp.lt nt (Fp.add l.delay l.attack) then Fp.mul x (Fp.div (Fp.sub nt l.delay) l.attack) else x
  let x := Fp.mul x l.base
  if l.zeroCentered then x else Fp.add x l.base

/-- The delay ramp of R330: 0 to BASE, or BASE to 0 when zero-centered. -/
def lfoRamp (l : LfoCfg) (nt : F32) : F32 :=
  let u := Fp.div nt l.delay
  if l.zeroCentered then Fp.mul l.base (Fp.sub Fp.one u) else Fp.mul l.base u

/-- An LFO's value and the generator as one evaluation leaves it (R330, R335). -/
def lfoEval (F : Config.Fns) (l : LfoCfg) (nt p : F32) (g : Prng) : F32 × Prng :=
  if Fp.gt nt l.delay then (lfoRunning l nt (wave F l.shape p g).1, (wave F l.shape p g).2)
  else if Fp.gt l.delay Fp.pos0 then (lfoRamp l nt, g)
  else (Fp.pos0, g)

/-- The phase advance of R334, made in every branch. -/
def lfoAdvance (p : F32) : F32 := Fp.wrap (Fp.add p Fp.dt)

/-- The six LFO cursors of one oscillator of one voice, with the shared generator. -/
structure LfoBank where
  ph   : Vector F32 6
  prng : Prng
  deriving DecidableEq, Repr

/-- `lfo_value(v, o, d)` (R330) on the bank: the value, and the bank with cursor `d` advanced. -/
def lfoValue (F : Config.Fns) (c : OscCfg) (nt : F32) (d : DestIx) (b : LfoBank) : F32 × LfoBank :=
  let r := lfoEval F c.lfo[d] nt b.ph[d] b.prng
  (r.1, ⟨b.ph.set d (lfoAdvance b.ph[d]), r.2⟩)

/-- The six modulation values of R361. -/
structure Mods where
  vol    : F32
  morph  : F32
  squish : F32
  dist   : F32
  tune   : F32
  dec    : F32
  deriving DecidableEq, Repr

/-- Step 1 of the oscillator (R361): the six LFOs in the order Volume, Morph, Squish, Distort, Tune, Decat, the
Volume value floored at 0. -/
def modulate (F : Config.Fns) (c : OscCfg) (nt : F32) (b : LfoBank) : Mods × LfoBank :=
  let r4 := lfoValue F c nt 4 b
  let r1 := lfoValue F c nt 1 r4.2
  let r2 := lfoValue F c nt 2 r1.2
  let r3 := lfoValue F c nt 3 r2.2
  let r0 := lfoValue F c nt 0 r3.2
  let r5 := lfoValue F c nt 5 r0.2
  (⟨Fp.fmax r4.1 Fp.pos0, r1.1, r2.1, r3.1, r0.1, r5.1⟩, r5.2)

end Sys2Proof.Machine
end

