-- ==== Sys2Proof/Machine/Oscillator.lean ====
section
/-! DEFINITION. The polyphase oscillator core (43_oscillator.md R360 to R376), its eight steps as functions. -/

namespace Sys2Proof.Machine

/-- `freq * 2.0`, `k` times (R362); once `freq` is zero, infinite or NaN further steps do not change it. -/
def octavesUp : Nat → F32 → F32
  | 0, f => f
  | k + 1, f => if Fp.isZero f || !Fp.isFinite f then f else octavesUp k (Fp.mul f Fp.two)

/-- `freq * 0.5`, `k` times (R362). -/
def octavesDown : Nat → F32 → F32
  | 0, f => f
  | k + 1, f => if Fp.isZero f || !Fp.isFinite f then f else octavesDown k (Fp.mul f Fp.c0_5)

/-- The octave offset as an s32 (R362). -/
def octaveShift (k : Int) (f : F32) : F32 := if 0 < k then octavesUp k.toNat f else octavesDown (-k).toNat f

/-- Step 2 (R362): the sounding frequency from the base pitch in semitones. -/
def frequency (F : Config.Fns) (c : OscCfg) (nb : F32) : F32 :=
  octaveShift c.octave.toInt
    (Fp.mul Fp.c440 (F.pow Fp.semitone (Fp.sub (Fp.add nb (Fp.ofS32 c.semitone)) Fp.c69)))

/-- The shaping parameters `C`, `flat` and `decat` of R363. -/
structure Shaping where
  c     : F32
  flat  : F32
  decat : F32
  deriving DecidableEq, Repr

/-- `alpha = 0.4 + 0.6 * clamp(morph, 0, 1)` (R363). -/
def alphaOf (morph : F32) : F32 := Fp.add Fp.c0_4 (Fp.mul Fp.c0_6 (Fp.clamp morph Fp.pos0 Fp.one))

/-- Step 3a (R363). -/
def shapingOf (morph squish dec : F32) : Shaping :=
  { c := Fp.mul (Fp.ipow (alphaOf morph) 10) Fp.thirty
    flat := Fp.mul (Fp.ipow squish 3) Fp.eight
    decat := Fp.ceil (Fp.add Fp.one (Fp.div Fp.one (Fp.add (Fp.ipow dec 3) Fp.c0_001))) }

/-- Step 3b (R364): quantize the cursor to `decat` steps unless `decat > 1000`. -/
def quantize (p decat : F32) : F32 :=
  if Fp.gt decat Fp.c1000 then p
  else Fp.add (Fp.div (Fp.floor (Fp.mul p decat)) decat) (Fp.div Fp.c0_5 decat)

/-- `transfer(x, a)` (R365). -/
def transfer (F : Config.Fns) (x a : F32) : F32 :=
  if Fp.lt x Fp.c0_5 then Fp.sub Fp.c0_5 (Fp.mul Fp.c0_5 (F.pow (Fp.sub Fp.one (Fp.mul Fp.two x)) a))
  else Fp.add Fp.c0_5 (Fp.mul Fp.c0_5 (F.pow (Fp.sub (Fp.mul Fp.two x) Fp.one) a))

/-- `half(c)` (R365). -/
def halfCurve (F : Config.Fns) (sh : Shaping) (c : F32) : F32 :=
  Fp.sub Fp.one (transfer F (Fp.mul (F.pow c sh.c) Fp.two) sh.flat)

/-- Step 3c (R365): the mirrored branch applies `half` to `1.0 - c` directly. -/
def shapeCurve (F : Config.Fns) (sh : Shaping) (c : F32) : F32 :=
  if Fp.lt c Fp.c0_5 then halfCurve F sh c else Fp.neg (halfCurve F sh (Fp.sub Fp.one c))

/-- Step 4 (R366): soft saturation. -/
def distort (x0 dist : F32) : F32 :=
  let y := Fp.mul x0 (Fp.add Fp.one dist)
  Fp.sub (Fp.mul Fp.c1_5 y) (Fp.mul Fp.c0_5 (Fp.ipow y 3))

/-- Step 6 (R368): smoothing toward the previous sample. -/
def smooth (y prev : F32) : F32 := Fp.add y (Fp.mul (Fp.sub prev y) Fp.c0_4)

/-- Step 7 (R369): the combine laws; `out` is the smoothed sample, `vol` the Volume modulation value. -/
def combine (c : OscCfg) (sum out vol : F32) : F32 :=
  match c.combine with
  | .mix => Fp.add sum out
  | .mul => Fp.mul sum (Fp.lerp Fp.one out c.lfo[(4 : DestIx)].base)
  | .ring => Fp.mul sum (Fp.sub Fp.one (Fp.mul Fp.c0_5 (Fp.add out vol)))

/-- Step 8 (R370): the phase advance, Tune added in hertz. -/
def phaseAdvance (p freq tune : F32) : F32 :=
  Fp.wrap (Fp.add p (Fp.div (Fp.fmax (Fp.add freq tune) Fp.pos0) Fp.rate))

/-- Steps 3 to 5: the shaped, distorted and scaled sample at cursor `p`. -/
def shapedSample (F : Config.Fns) (sh : Shaping) (p dist vol : F32) : F32 :=
  Fp.mul (distort (shapeCurve F sh (quantize p sh.decat)) dist) vol

/-- What one oscillator step answers: the new running sum, the transient and the generator. -/
structure OscRun where
  sum  : F32
  osc  : OscState
  prng : Prng
  deriving DecidableEq, Repr

/-- `osc_step(v, o, nb, sum)` (R371): steps R361 to R370 in order, on oscillator configuration `c` and transient
`o`; `nt` is the voice's time in seconds. -/
def oscStep (F : Config.Fns) (c : OscCfg) (nt nb sum : F32) (o : OscState) (g : Prng) : OscRun :=
  let m := modulate F c nt ⟨o.lfoPh, g⟩
  let sh := shapingOf m.1.morph m.1.squish m.1.dec
  let out := smooth (shapedSample F sh o.phase m.1.dist m.1.vol) o.prev
  { sum := combine c sum out m.1.vol
    osc := { phase := phaseAdvance o.phase (frequency F c nb) m.1.tune, prev := out, lfoPh := m.2.ph }
    prng := m.2.prng }

end Sys2Proof.Machine
end

