-- ==== Sys2Proof/Machine/HostCommands.lean ====
section
/-! DEFINITION. The host commands (47_host_commands.md R500 to R506): NOP, CFG_WRITE, REG_READ, POP_OUTPUT,
RENDER_SCOPE. -/

namespace Sys2Proof.Machine

/-- NOP (R500): no effect. -/
def execNop (s : State) : Host.Outcome State Fault Refusal := .next s

/-- CFG_WRITE (R501): an unmapped or read-only address, then an illegal value, is an error that leaves the
register; STATUS is write-one-to-clear (R503). -/
def execCfgWrite (addr : BitVec 16) (data : U32) (s : State) : Host.Outcome State Fault Refusal :=
  match regOfAddr addr with
  | none => .next (raiseCmdError .address 0 s)
  | some r =>
    if access r = .ro then .next (raiseCmdError .address 0 s)
    else if legal r data then .next (writeReg r data s)
    else .next (raiseCmdError .value 0 s)

/-- REG_READ (R502): one response word, also on an error. -/
def execRegRead (addr : BitVec 16) (s : State) : Host.Outcome State Fault Refusal :=
  match regOfAddr addr with
  | none => .next (raiseCmdError .address 1 s)
  | some r => .next (respond [readReg r s] .nothing s)

/-- The observable range of a channel (R504): [0, 1], so a NaN and every negative sample read as `0.0`. -/
def popClamp (x : F32) : F32 := Fp.clamp x Fp.pos0 Fp.one

/-- The two words of POP_OUTPUT: the frame at the read cursor, left first (R504). -/
def popWords (s : State) : List U32 :=
  let f := Memory.read s.buf s.readCursor.val
  [popClamp f.l, popClamp f.r]

/-- POP_OUTPUT (R504): two responses, then the read cursor advances; the write cursor is not compared (R162). -/
def execPopOutput (s : State) : Host.Outcome State Fault Refusal :=
  .next (respond (popWords s) .advanceRead s)

/-- The preview's Volume, Morph, Squish, Distort and Decat values: the BASE registers (R505). -/
def scopeShaping (c : OscCfg) : Shaping :=
  shapingOf c.lfo[(1 : DestIx)].base c.lfo[(2 : DestIx)].base c.lfo[(5 : DestIx)].base

/-- The preview phase of sample `i` of `n`: one cycle over `n` samples (R505). -/
def scopePhase (n i : Nat) : F32 := Fp.wrap (Fp.div (Fp.ofInt i) (Fp.ofInt n))

/-- The response word of preview sample `i` of `n` (R505): steps 3 to 5 of the oscillator, no smoothing, no
combine law. -/
def scopeWord (F : Config.Fns) (c : OscCfg) (n i : Nat) : U32 :=
  shapedSample F (scopeShaping c) (scopePhase n i) c.lfo[(3 : DestIx)].base (Fp.fmax c.lfo[(4 : DestIx)].base Fp.pos0)

/-- The `n` words of a preview, in order (R505). -/
def scopeWords (F : Config.Fns) (c : OscCfg) (n : Nat) : List U32 := (List.range n).map (scopeWord F c n)

/-- RENDER_SCOPE (R505): exactly COUNT words, also on an error; it writes no state. -/
def execRenderScope (osc : BitVec 8) (count : U32) (s : State) : Host.Outcome State Fault Refusal :=
  match oscOf osc with
  | none => .next (raiseCmdError .value count.toNat s)
  | some o => .next (respond (scopeWords fns s.cfg.osc[o] count.toNat) .nothing s)

end Sys2Proof.Machine
end

