-- ==== Sys2Proof/Machine/Envelope.lean ====
section
/-! DEFINITION. The envelope unit (41_envelope.md R300 to R308). Times are sample counts, compared in seconds by
`sec` (R260). Out-of-domain fields are computed by the same formulas (R303, D26). -/

namespace Sys2Proof.Machine

/-- The saved value an envelope starts from (R300). -/
def savedValue (v : Voice) : EnvSel → F32
  | .amp => v.savedAmp
  | .flt => v.savedFlt

/-- The held branch of R301. -/
def envHeld (e : EnvCfg) (saved t : F32) : F32 :=
  if Fp.gt t (Fp.add e.attack e.decay) then e.sustain
  else if Fp.gt t e.attack && Fp.gt e.decay Fp.pos0 then
    Fp.lerp Fp.one e.sustain (Fp.div (Fp.sub t e.attack) e.decay)
  else if Fp.gt e.attack Fp.pos0 then Fp.lerp saved Fp.one (Fp.div t e.attack)
  else Fp.pos0

/-- The released branch of R301: the value and whether the release window has expired. -/
def envReleased (e : EnvCfg) (saved re : F32) : F32 × Bool :=
  if Fp.gt e.release Fp.pos0 && Fp.lt re (Fp.mul e.release Fp.five) then
    (Fp.mul saved (Fp.sub Fp.one (Fp.div re (Fp.mul e.release Fp.five))), false)
  else (Fp.pos0, true)

/-- `env_eval(v, which)` (R301): value and `expired`; it writes nothing. -/
def envEval (c : Cfg) (v : Voice) (which : EnvSel) : F32 × Bool :=
  if v.alive then (envHeld (envCfg c which) (savedValue v which) (Fp.sec v.time), false)
  else envReleased (envCfg c which) (savedValue v which) (Fp.sec (v.time - v.relTime))

/-- `env_capture(v, which)` (R305): a died voice captures `0.0`, `expired` is ignored. -/
def envCapture (c : Cfg) (v : Voice) (which : EnvSel) : F32 :=
  if v.died then Fp.pos0 else (envEval c v which).1

end Sys2Proof.Machine
end

