-- ==== Sys2Proof/Machine/Notes.lean ====
section
/-! DEFINITION. Note events and voice allocation (45_note_events.md R430 to R443): NOTE_ON and NOTE_OFF. -/

namespace Sys2Proof.Machine

/-- The voice holds `key`: its KEY equals it and it is not died (R431 step (a)). -/
def holdsKey (v : Voice) (key : BitVec 8) : Bool := decide (v.key = key) && !v.died

/-- `alloc(key)` (R431): a voice holding the key, else a died voice, else an idle one, lowest slot first. -/
def alloc (key : BitVec 8) (s : State) : Option Slot :=
  match allSlots.find? fun v => holdsKey (s.voice v) key with
  | some v => some v
  | none =>
    match allSlots.find? fun v => (s.voice v).died with
    | some v => some v
    | none => allSlots.find? fun v => !(s.voice v).alive

/-- `match_off(key)` (R432): the lowest held voice with the key. -/
def matchOff (key : BitVec 8) (s : State) : Option Slot :=
  allSlots.find? fun v => (s.voice v).alive && decide ((s.voice v).key = key)

/-- The LFO cursors after a note-on: those with NOTE_SYNC restart at `+0.0` (R336). -/
def syncLfos (c : Cfg) (osc : Vector OscState 2) : Vector OscState 2 :=
  vec2 fun o => { osc[o] with
    lfoPh := vec6 fun d => if c.osc[o].lfo[d].noteSync then Fp.pos0 else osc[o].lfoPh[d] }

/-- `assign(v, key, vel)` (R433) on the voice record: both captures are of the old state. -/
def assignVoice (c : Cfg) (key : BitVec 8) (vel : F32) (v : Voice) : Voice :=
  { v with
    savedAmp := envCapture c v .amp
    savedFlt := envCapture c v .flt
    key := key
    vel := vel
    time := 0#32
    alive := true
    died := false
    osc := syncLfos c v.osc }

/-- `release(v)` (R434) on the voice record. -/
def releaseVoice (c : Cfg) (v : Voice) : Voice :=
  { v with
    savedAmp := envCapture c v .amp
    savedFlt := envCapture c v .flt
    relTime := v.time
    alive := false }

/-- `assign` in the pool. -/
def assign (v : Slot) (key : BitVec 8) (vel : F32) (s : State) : State :=
  s.setVoice v (assignVoice s.cfg key vel (s.voice v))

/-- `release` in the pool. -/
def release (v : Slot) (s : State) : State := s.setVoice v (releaseVoice s.cfg (s.voice v))

/-- The glide state after a Portamento note-on (R436). -/
def portaGlide (key : BitVec 8) (s : State) : Glide :=
  let k := Fp.ofInt key.toNat
  if (s.voice 0).alive && Fp.gt s.cfg.portaTime Fp.pos0 then
    { cur := s.glide.cur, target := k, rate := Fp.div (Fp.sub k s.glide.cur) s.cfg.portaTime }
  else { cur := k, target := k, rate := Fp.pos0 }

/-- `porta_note_on(key, vel)` (R436): the glide, then voice 0, always. -/
def portaNoteOn (key : BitVec 8) (vel : F32) (s : State) : State :=
  assign 0 key vel (s.setGlide (portaGlide key s))

/-- A note-on whose operands are legal (R430): another channel is ignored (R438), a note without a voice is
dropped. -/
def noteOn (ch key : BitVec 8) (vel : F32) (s : State) : State :=
  if ch ≠ s.cfg.channel then s
  else
    match s.cfg.mode with
    | .portamento => portaNoteOn key vel s
    | .poly =>
      match alloc key s with
      | some v => assign v key vel s
      | none => s
    | .arpeggio =>
      match alloc key s with
      | some v => assign v key vel s
      | none => s

/-- A note-off whose operands are legal (R440): in Portamento mode only voice 0 is examined. -/
def noteOff (ch key : BitVec 8) (s : State) : State :=
  if ch ≠ s.cfg.channel then s
  else
    match s.cfg.mode with
    | .portamento => if (s.voice 0).alive && decide ((s.voice 0).key = key) then release 0 s else s
    | .poly =>
      match matchOff key s with
      | some v => release v s
      | none => s
    | .arpeggio =>
      match matchOff key s with
      | some v => release v s
      | none => s

/-- NOTE_ON (R430). -/
def execNoteOn (ch key : BitVec 8) (vel : F32) (s : State) : Host.Outcome State Fault Refusal :=
  if keyLegal key then .next (noteOn ch key vel s) else .next (raiseCmdError .value 0 s)

/-- NOTE_OFF (R440). -/
def execNoteOff (ch key : BitVec 8) (s : State) : Host.Outcome State Fault Refusal :=
  if keyLegal key then .next (noteOff ch key s) else .next (raiseCmdError .value 0 s)

end Sys2Proof.Machine
end

