-- ==== Sys2Proof/Machine/Filter.lean ====
section
/-! DEFINITION. The nonlinear ladder filter (44_ladder_filter.md R400 to R409). -/

namespace Sys2Proof.Machine

/-! The Huovilainen polynomial constants adopted by the spec (R252, R401, G8). -/

def cF3 : F32 := 0x3FEFBE77#32
def cF2 : F32 := 0x3EFDB22D#32
/-- -0.6490; R401 subtracts `0.6490 * fc`, whose constant is this pattern with the sign cleared. -/
def cF1 : F32 := 0xBF2624DD#32
def cF0 : F32 := 0x3F7FB15B#32
def cA2 : F32 := 0xC07BEDFA#32
def cA1 : F32 := 0x3FEBA29C#32
def cA0 : F32 := 0x3F7F2E49#32

/-- The coefficients of one call (R401). -/
structure FilterCoef where
  acr  : F32
  tune : F32
  deriving DecidableEq, Repr

/-- `fc`: the guarded cutoff as a fraction of the sample rate (R401, R405). -/
def cutoffFc (cutoff : F32) : F32 := Fp.mul (Fp.clamp cutoff Fp.pos0 Fp.one) Fp.c0_5

/-- `fcr`, the cutoff correction polynomial (R401). -/
def cutoffCorrection (fc : F32) : F32 :=
  let fc2 := Fp.mul fc fc
  let fc3 := Fp.mul fc2 fc
  Fp.add (Fp.sub (Fp.add (Fp.mul cF3 fc3) (Fp.mul cF2 fc2)) (Fp.mul (Fp.neg cF1) fc)) cF0

/-- `acr`, the amplitude correction polynomial (R401). -/
def amplitudeCorrection (fc : F32) : F32 :=
  Fp.add (Fp.add (Fp.mul cA2 (Fp.mul fc fc)) (Fp.mul cA1 fc)) cA0

/-- `tune`, the tuning gain (R401). -/
def tuningGain (F : Config.Fns) (fc : F32) : F32 :=
  Fp.sub Fp.one (F.exp (Fp.neg (Fp.mul (Fp.mul Fp.twoPi (Fp.mul fc Fp.c0_5)) (cutoffCorrection fc))))

/-- The coefficients from the cutoff register (R401). -/
def filterCoef (F : Config.Fns) (cutoff : F32) : FilterCoef :=
  ⟨amplitudeCorrection (cutoffFc cutoff), tuningGain F (cutoffFc cutoff)⟩

/-- One one-pole stage (R402): the stage value `s` moved by `tune` toward its saturated input `x`. DESIGN CHOICE, safe
(log entry 21): R408 bounds the new stage value by `max(|s|, 1)`, which does not follow from R402 and R263; the model
computes R402's formula with any `FN_TANH` that R263 admits and imposes no such bound. -/
def poleStep (F : Config.Fns) (tune s x : F32) : F32 := Fp.add s (Fp.mul tune (Fp.sub (F.tanh x) (F.tanh s)))

/-- `filter_pass(v, x_in)` (R402, R404). -/
def filterPass (F : Config.Fns) (k : FilterCoef) (res xin : F32) (f : FilterState) : FilterState :=
  let x := Fp.sub xin (Fp.mul (Fp.mul (Fp.mul Fp.four res) f.fout) k.acr)
  let s0 := poleStep F k.tune f.fs0 x
  let s1 := poleStep F k.tune f.fs1 s0
  let s2 := poleStep F k.tune f.fs2 s1
  let s3 := poleStep F k.tune f.fs3 s2
  { fs0 := s0, fs1 := s1, fs2 := s2, fs3 := s3, fout := Fp.mul (Fp.add s3 f.fdly) Fp.c0_5, fdly := s3 }

/-- `filter_step(v, x_in)` (R403): two passes with the same input; the filtered sample is the new `fout`. -/
def filterStep (F : Config.Fns) (c : Cfg) (xin : F32) (f : FilterState) : FilterState :=
  let k := filterCoef F c.filterCutoff
  filterPass F k c.filterResonance xin (filterPass F k c.filterResonance xin f)

end Sys2Proof.Machine
end

