-- ==== Sys2Proof/Machine/Render.lean ====
section
/-! DEFINITION. The voice renderer pipeline (46_render.md R470 to R484): RENDER. -/

namespace Sys2Proof.Machine

/-- The note table: the held voices in slot order (R472). -/
def heldSlots (s : State) : List Slot := allSlots.filter fun v => (s.voice v).alive

/-- The pool has six voices, so the note table has at most six entries and the index stays in 0..11 (R58). -/
theorem arp_index_bound (s : State) (h : heldSlots s ≠ []) (n : Nat) :
    n % (2 * (heldSlots s).length) < 12 := by
  have h6 : (heldSlots s).length ≤ 6 := by
    simpa [heldSlots, allSlots] using List.length_filter_le (fun v => (s.voice v).alive) allSlots
  have h0 : 0 < (heldSlots s).length := List.length_pos_iff.mpr h
  exact Nat.lt_of_lt_of_le (Nat.mod_lt _ (by omega)) (by omega)

/-- `arp_update()` (R472): the selected voice sounds, the index advances modulo `2N`; with no held voice the index
restarts and the rendered slot stays. -/
def arpUpdate (s : State) : State :=
  if h : heldSlots s = [] then s.setArp 0 s.arpVoice
  else
    let n := 2 * (heldSlots s).length
    let sel := s.arpIndex.val % n
    s.setArp ⟨(sel + 1) % n, arp_index_bound s h (sel + 1)⟩ ((heldSlots s)[sel / 2]?.getD s.arpVoice)

/-- `glide_step()` (R473): one sample toward the target, clamped at arrival. -/
def glideStep (g : Glide) : Glide :=
  let stepped := Fp.add g.cur (Fp.mul g.rate Fp.dt)
  if Fp.gt g.rate Fp.pos0 then { g with cur := if Fp.gt stepped g.target then g.target else stepped }
  else if Fp.lt g.rate Fp.pos0 then { g with cur := if Fp.lt stepped g.target then g.target else stepped }
  else g

/-- The slots a sample visits, in order (R471). -/
def visited (s : State) : List Slot :=
  match s.cfg.mode with
  | .poly => allSlots
  | .arpeggio => [s.arpVoice]
  | .portamento => [0]

/-- The voice counter, saturating at 0xFFFFFFFF (R475). -/
def tick (t : U32) : U32 := if t = 0xFFFFFFFF#32 then t else t + 1#32

/-- The base pitch with the bend of `PITCH_BEND * 2` semitones (R476). -/
def basePitch (c : Cfg) (glideCur : F32) (v : Voice) : F32 :=
  let bend := Fp.mul c.pitchBend Fp.two
  match c.mode with
  | .portamento => Fp.add glideCur bend
  | .poly => Fp.add (Fp.ofInt v.key.toNat) bend
  | .arpeggio => Fp.add (Fp.ofInt v.key.toNat) bend

/-- What one voice sample answers: the accumulator, the voice, the generator. -/
structure VoiceRun where
  acc   : F32
  voice : Voice
  prng  : Prng
  deriving DecidableEq, Repr

/-- Signal, filter, blend and contribution of a voice with amplitude `a` (R477, R478), its time already advanced. -/
def soundVoice (F : Config.Fns) (c : Cfg) (glideCur a : F32) (v : Voice) (acc : F32) (g : Prng) : VoiceRun :=
  let nt := Fp.sec v.time
  let nb := basePitch c glideCur v
  let r0 := oscStep F c.osc[(0 : OscIx)] nt nb Fp.pos0 v.osc[(0 : OscIx)] g
  let r1 := oscStep F c.osc[(1 : OscIx)] nt nb r0.sum v.osc[(1 : OscIx)] r0.prng
  let filter := filterStep F c r1.sum v.filter
  let mixed := Fp.lerp r1.sum filter.fout (Fp.mul (envEval c v .flt).1 c.filterDrive)
  { acc := Fp.add acc (Fp.mul (Fp.mul (Fp.mul mixed a) v.vel) Fp.c0_5)
    voice := { v with filter := filter, osc := #v[r0.osc, r1.osc] }
    prng := r1.prng }

/-- The voice one sample older (R475). -/
def ageVoice (v : Voice) : Voice := { v with time := tick v.time }

/-- One visited voice's sample (R474, R475): a died voice is skipped, time advances before the evaluation, an
expired amplitude envelope marks the voice died, an amplitude of exactly 0 ends the voice's sample. -/
def voiceSample (F : Config.Fns) (c : Cfg) (glideCur : F32) (v : Voice) (acc : F32) (g : Prng) : VoiceRun :=
  if v.died then ⟨acc, v, g⟩
  else
    let v1 := ageVoice v
    let e := envEval c v1 .amp
    let v2 := if e.2 then { v1 with died := true } else v1
    if Fp.eq e.1 Fp.pos0 then ⟨acc, v2, g⟩ else soundVoice F c glideCur e.1 v2 acc g

/-- Visit one slot: the accumulator and the state after its voice's sample. -/
def renderSlot (F : Config.Fns) (r : F32 × State) (v : Slot) : F32 × State :=
  let x := voiceSample F r.2.cfg r.2.glide.cur (r.2.voice v) r.1 r.2.prng
  (x.acc, (r.2.setVoice v x.voice).setPrng x.prng)

/-- The per-sample glide, in Portamento mode only (R473). -/
def glideSample (s : State) : State :=
  match s.cfg.mode with
  | .portamento => s.setGlide (glideStep s.glide)
  | .poly => s
  | .arpeggio => s

/-- The frame of a voice sum: clamped to [-1, 1], then scaled by the two gains (R479). -/
def frameOf (c : Cfg) (acc : F32) : Frame :=
  let x := Fp.clamp acc Fp.negOne Fp.one
  ⟨Fp.mul x c.gainL, Fp.mul x c.gainR⟩

/-- The voices of one sample: the sum, starting at `+0.0`, and the state before the frame is written. -/
def mixVoices (F : Config.Fns) (s : State) : F32 × State :=
  (visited s).foldl (renderSlot F) (Fp.pos0, glideSample s)

/-- `render_sample()` (R480). -/
def renderSample (F : Config.Fns) (s : State) : State :=
  let r := mixVoices F s
  pushFrame (frameOf r.2.cfg r.1) r.2

/-- `n` samples, one after another (R470). -/
def renderSamples (F : Config.Fns) : Nat → State → State
  | 0, s => s
  | n + 1, s => renderSamples F n (renderSample F s)

/-- The once-per-block step: the arpeggio update, in Arpeggio mode only, also for a count of 0 (R470). -/
def beginBlock (s : State) : State :=
  match s.cfg.mode with
  | .arpeggio => arpUpdate s
  | .poly => s
  | .portamento => s

/-- RENDER (R470): no operand of it is illegal. -/
def execRender (count : U32) (s : State) : Host.Outcome State Fault Refusal :=
  .next (renderSamples fns count.toNat (beginBlock s))

end Sys2Proof.Machine
end

