-- ==== Sys2Proof/Machine/Dispatch.lean ====
section
/-! DEFINITION. The meaning of every command, one arm per constructor of Instr. -/

namespace Sys2Proof.Machine

def exec (i : Instr) (s : State) : Host.Outcome State Fault Refusal :=
  match i with
  | .nop => Sys2Proof.Machine.execNop s
  | .noteOn ch key vel => Sys2Proof.Machine.execNoteOn ch key vel s
  | .noteOff ch key => Sys2Proof.Machine.execNoteOff ch key s
  | .render count => Sys2Proof.Machine.execRender count s
  | .cfgWrite addr data => Sys2Proof.Machine.execCfgWrite addr data s
  | .regRead addr => Sys2Proof.Machine.execRegRead addr s
  | .popOutput => Sys2Proof.Machine.execPopOutput s
  | .renderScope osc count => Sys2Proof.Machine.execRenderScope osc count s

end Sys2Proof.Machine
end

