-- ==== Sys2Proof/Machine/HostPort.lean ====
section
/-! DEFINITION. The host's moves at the ports (10_state.md R90, 20_memory.md R177) and at the reset input
(70_reset_and_hazards.md R600). The agenda in `State.port` says, as plain data, what the host does next; a move
that must wait (a push at a full command FIFO, a pop at an empty response FIFO) leaves the turn to the block. -/

namespace Sys2Proof.Machine

/-- The reset input asserted and released: every piece of state takes its reset value; a command in flight and
the words in the response FIFO are gone (R600). The host's side keeps its agenda and what it has received. -/
def assertReset (agenda : List PortEvent) (s : State) : State :=
  State.reset.setPort ⟨agenda, s.port.received⟩

/-- The host's move, if it has one to make now: `none` where the turn is the block's. -/
def hostMove (s : State) : Option State :=
  match s.port.agenda with
  | .push cmd :: rest =>
    if s.cmdFifo.length < Config.cmdFifoDepth then
      some ((s.setCmdFifo (s.cmdFifo ++ [cmd])).setPort ⟨rest, s.port.received⟩)
    else none
  | .pop :: rest =>
    match s.rspFifo with
    | [] => none
    | w :: ws => some ((s.setRspFifo ws).setPort ⟨rest, s.port.received ++ [w]⟩)
  | .reset :: rest => some (assertReset rest s)
  | .pass :: _ => none
  | [] => none

/-- The host's `pass` is spent when the block moves. -/
def spendPass (s : State) : State :=
  match s.port.agenda with
  | .pass :: rest => s.setPort ⟨rest, s.port.received⟩
  | .push _ :: _ => s
  | .pop :: _ => s
  | .reset :: _ => s
  | [] => s

/-- The next command word and the state with it removed from the FIFO (R90, R201). -/
def fetch (s : State) : Option (Cmd × State) :=
  match s.cmdFifo with
  | [] => none
  | w :: rest => some (w, s.setCmdFifo rest)

end Sys2Proof.Machine
end

