-- ==== Sys2Proof/Machine/Step.lean ====
section
/-! DEFINITION. One step: the host's move where it has one, else the block's. -/

namespace Sys2Proof.Machine

/-- Run one command word: a word that decodes executes, any other is rejected (R212). -/
def runWord (w : Cmd) (s : State) : Host.Outcome State Fault Refusal :=
  match decode w with
  | .instr i => exec i s
  | .reservedOpcode => .next (rejectWord .reservedOpcode s)
  | .reservedBits op count => .next (rejectWord (.reservedBits op count) s)

/-- The block's move: a command in flight goes on responding and no other is taken (R611); else the word at the
head of the command FIFO runs (R170); with an empty FIFO nothing changes (R621). -/
def blockMove (s : State) : Host.Outcome State Fault Refusal :=
  match s.inFlight with
  | some _ => .next (drain s)
  | none =>
    match fetch s with
    | none => .next s
    | some (w, s') => runWord w s'

/-- One step of the machine. -/
def step (s : State) : Host.Outcome State Fault Refusal :=
  match hostMove s with
  | some s' => .next s'
  | none => blockMove (spendPass s)

/-- `s` with the command word `w` where the block takes its next command from: at the head of the command FIFO,
no earlier command in flight, the block to move. Bits above `nbits` are 0. -/
def State.withFetchWord (s : State) (nbits w : Nat) : State :=
  ((s.setCmdFifo (BitVec.ofNat 64 (w % 2 ^ nbits) :: s.cmdFifo.tail)).setInFlight none).setPort
    ⟨[], s.port.received⟩

end Sys2Proof.Machine
end

