-- ==== Sys2Proof/Machine/Assembler.lean ====
section
/-! DEFINITION. The assembler syntax and pseudo-commands of 30_encoding.md R220 and R221: one line of text to the
commands it stands for. Text is a list of characters; a line outside the syntax gives `none`. -/

namespace Sys2Proof.Machine

/-! ## Register names (10_state.md) -/

def digitName : Nat → List Char
  | 0 => ['0'] | 1 => ['1'] | 2 => ['2'] | 3 => ['3'] | 4 => ['4'] | _ => ['5']

/-- `[i]` -/
def indexName (i : Nat) : List Char := '[' :: digitName i ++ [']']

def globalName : GlobalReg → String
  | .mode => "MODE" | .channel => "CHANNEL" | .filterDrive => "FILTER_DRIVE" | .filterCutoff => "FILTER_CUTOFF"
  | .filterResonance => "FILTER_RESONANCE" | .gainL => "GAIN_L" | .gainR => "GAIN_R" | .portaTime => "PORTA_TIME"
  | .pitchBend => "PITCH_BEND" | .prngA => "PRNG_A" | .prngB => "PRNG_B"

def envName : EnvSel → String
  | .amp => "AMP_" | .flt => "FLT_"

def envFieldName : EnvField → String
  | .attack => "ATTACK" | .decay => "DECAY" | .sustain => "SUSTAIN" | .release => "RELEASE"

def oscFieldName : OscField → String
  | .octave => "OCTAVE" | .semitone => "SEMITONE" | .combine => "COMBINE"

def lfoFieldName : LfoField → String
  | .delay => "DELAY" | .attack => "ATTACK" | .magnitude => "MAGNITUDE" | .rate => "RATE" | .base => "BASE"
  | .shape => "SHAPE" | .flags => "FLAGS"

def statName : StatReg → String
  | .status => "STATUS" | .id => "ID" | .version => "VERSION" | .arpIndex => "ARP_INDEX" | .arpVoice => "ARP_VOICE"
  | .glideCur => "GLIDE_CUR" | .glideTarget => "GLIDE_TARGET" | .glideRate => "GLIDE_RATE"
  | .writeCursor => "WRITE_CURSOR" | .readCursor => "READ_CURSOR"

def voiceRegName : VoiceReg → List Char
  | .key => "KEY".toList | .vel => "VEL".toList | .time => "TIME".toList | .relTime => "REL_TIME".toList
  | .flags => "FLAGS".toList | .savedAmp => "SAVED_AMP".toList | .savedFlt => "SAVED_FLT".toList
  | .fs i => "FS".toList ++ indexName i.val
  | .fdly => "FDLY".toList | .fout => "FOUT".toList
  | .phase o => "OSC".toList ++ indexName o.val ++ ".PHASE".toList
  | .prev o => "OSC".toList ++ indexName o.val ++ ".PREV".toList
  | .lfoPh o d => "OSC".toList ++ indexName o.val ++ ".LFOPH".toList ++ indexName d.val

/-- A register's name as the tables of 10_state.md write it. -/
def regName : Reg → List Char
  | .global g => (globalName g).toList
  | .env w f => (envName w).toList ++ (envFieldName f).toList
  | .osc o f => "OSC".toList ++ indexName o.val ++ '.' :: (oscFieldName f).toList
  | .lfo o d f => "LFO".toList ++ indexName o.val ++ indexName d.val ++ '.' :: (lfoFieldName f).toList
  | .stat r => (statName r).toList
  | .voice v r => 'V' :: indexName v.val ++ '.' :: voiceRegName r

/-- Every mapped register: the registers some address names. -/
def allRegs : List Reg :=
  (List.range 0x200 ++ (List.range 0x10).map (0x800 + ·) ++ (List.range 0x180).map (0x1000 + ·)).filterMap regAt

/-! ## Operands (R220) -/

def trimLeft (cs : List Char) : List Char := cs.dropWhile fun c => c = ' ' || c = '\t'

def trim (cs : List Char) : List Char := (trimLeft (trimLeft cs).reverse).reverse

/-- The comma-separated pieces of a list of characters. -/
def splitCommas : List Char → List (List Char)
  | [] => [[]]
  | c :: cs =>
    match splitCommas cs with
    | [] => [[c]]
    | p :: ps => if c = ',' then [] :: p :: ps else (c :: p) :: ps

def decDigit (c : Char) : Option Nat :=
  if '0'.toNat ≤ c.toNat ∧ c.toNat ≤ '9'.toNat then some (c.toNat - '0'.toNat) else none

def hexDigit (c : Char) : Option Nat :=
  if 'a'.toNat ≤ c.toNat ∧ c.toNat ≤ 'f'.toNat then some (c.toNat - 'a'.toNat + 10)
  else if 'A'.toNat ≤ c.toNat ∧ c.toNat ≤ 'F'.toNat then some (c.toNat - 'A'.toNat + 10)
  else decDigit c

/-- Digits after the accumulated value `acc`. -/
def digitsFrom (digit : Char → Option Nat) (base : Nat) : Nat → List Char → Option Nat
  | acc, [] => some acc
  | acc, c :: cs => (digit c).bind fun d => digitsFrom digit base (acc * base + d) cs

/-- A nonempty run of digits. -/
def digits (digit : Char → Option Nat) (base : Nat) (cs : List Char) : Option Nat :=
  if cs = [] then none else digitsFrom digit base 0 cs

/-- An integer operand: decimal or `0x` hexadecimal. -/
def natOperand : List Char → Option Nat
  | '0' :: 'x' :: cs => digits hexDigit 16 cs
  | cs => digits decDigit 10 cs

/-- An integer operand with an optional minus sign. -/
def intOperand : List Char → Option Int
  | '-' :: cs => (natOperand cs).map fun n => -(n : Int)
  | cs => (natOperand cs).map fun n => (n : Int)

/-- The binary32 nearest to `±m * 10^e`. -/
def decimalValue (neg : Bool) (m : Nat) (e : Int) : F32 :=
  Fp.pack neg (if 0 ≤ e then Fp.roundMag (m * 10 ^ e.toNat * 2 ^ 149) 1 else Fp.roundMag (m * 2 ^ 149) (10 ^ (-e).toNat))

/-- The mantissa digits of a decimal literal around its point, scaled by ten to `e`. -/
def mantissa (neg : Bool) (cs : List Char) (e : Int) : Option F32 :=
  let whole := cs.takeWhile (· ≠ '.')
  let frac := (cs.dropWhile (· ≠ '.')).drop 1
  (digits decDigit 10 (whole ++ frac)).map fun m => decimalValue neg m (e - frac.length)

def isExponent (c : Char) : Bool := c = 'e' || c = 'E'

/-- An unsigned literal with a decimal point or an exponent. DESIGN CHOICE, safe (log entry 19): R220 shows an exponent
only as in `2e-3`; here it is `e` or `E` and an integer operand with an optional minus sign, decimal or `0x`
hexadecimal, and an explicit plus sign is no exponent. -/
def decimalOperand (neg : Bool) (cs : List Char) : Option F32 :=
  let tail := cs.dropWhile fun c => !isExponent c
  match tail with
  | [] => if cs.contains '.' then mantissa neg cs 0 else none
  | _ :: ex => (intOperand ex).bind fun e => mantissa neg (cs.takeWhile fun c => !isExponent c) e

/-- A literal with a decimal point or exponent, with an optional minus sign: the nearest binary32 (R220). -/
def floatOperand : List Char → Option F32
  | '-' :: cs => decimalOperand true cs
  | cs => decimalOperand false cs

/-- A `<vel>` or `<value>`: an integer gives its 32-bit two's-complement pattern, a literal with a decimal point
or exponent the nearest binary32 (R220). -/
def valueOperand (cs : List Char) : Option U32 :=
  match intOperand cs with
  | some n => if -(2 ^ 31) ≤ n ∧ n < 2 ^ 32 then some (BitVec.ofInt 32 n) else none
  | none => floatOperand cs

/-- An unsigned operand that must fit `w` bits. -/
def fieldOperand (w : Nat) (cs : List Char) : Option (BitVec w) :=
  (natOperand cs).bind fun n => if n < 2 ^ w then some (BitVec.ofNat w n) else none

/-- A `<reg>`: an address or a register name (R220). -/
def regOperand (cs : List Char) : Option (BitVec 16) :=
  match fieldOperand 16 cs with
  | some a => some a
  | none => (allRegs.find? fun r => regName r = cs).map fun r => BitVec.ofNat 16 (regAddr r)

/-! ## Commands and pseudo-commands -/

/-- A CFG_WRITE of a register. -/
def cfgWriteOf (r : Reg) (w : U32) : Instr := .cfgWrite (BitVec.ofNat 16 (regAddr r)) w

/-- The mode of `set_mode` (R221). -/
def modeOperand (cs : List Char) : Option U32 :=
  if cs = "poly".toList then some (modeCode .poly)
  else if cs = "arp".toList then some (modeCode .arpeggio)
  else if cs = "porta".toList then some (modeCode .portamento)
  else none

/-- The commands a mnemonic and its operands encode: the eight rows of R220, then the expansions of R221. -/
def commandsOf (m : List Char) (ops : List (List Char)) : Option (List Instr) :=
  match ops with
  | [] =>
    if m = "nop".toList then some [.nop]
    else if m = "pop_output".toList then some [.popOutput]
    else if m = "clear_status".toList then some [cfgWriteOf (.stat .status) 0xF#32]
    else if m = "sync".toList then some [.regRead (BitVec.ofNat 16 (regAddr (.stat .id)))]
    else none
  | [x] =>
    if m = "render".toList then (fieldOperand 32 x).map fun n => [.render n]
    else if m = "reg_read".toList then (regOperand x).map fun a => [.regRead a]
    else if m = "set_mode".toList then (modeOperand x).map fun w => [cfgWriteOf (.global .mode) w]
    else if m = "pop_frames".toList then (natOperand x).map fun n => List.replicate n .popOutput
    else none
  | [x, y] =>
    if m = "note_off".toList then
      (fieldOperand 8 x).bind fun ch => (fieldOperand 8 y).map fun key => [.noteOff ch key]
    else if m = "cfg_write".toList then
      (regOperand x).bind fun a => (valueOperand y).map fun w => [.cfgWrite a w]
    else if m = "render_scope".toList then
      (fieldOperand 8 x).bind fun o => (fieldOperand 32 y).map fun n => [.renderScope o n]
    else none
  | [x, y, z] =>
    if m = "note_on".toList then
      (fieldOperand 8 x).bind fun ch => (fieldOperand 8 y).bind fun key =>
        (valueOperand z).map fun vel => [.noteOn ch key vel]
    else if m = "lfo_base".toList then
      ((fieldOperand 8 x).bind oscOf).bind fun o => ((natOperand y).bind destAt).bind fun d =>
        (valueOperand z).map fun w => [cfgWriteOf (.lfo o d .base) w]
    else none
  | _ => none

/-- One line of assembler text: `;` begins a comment, a blank line stands for nothing (R220). -/
def assembleLine (line : List Char) : Option (List Instr) :=
  let text := trim (line.takeWhile (· ≠ ';'))
  let m := text.takeWhile fun c => !(c = ' ' || c = '\t')
  let rest := trim (text.drop m.length)
  if text = [] then some []
  else if rest = [] then commandsOf m []
  else commandsOf m ((splitCommas rest).map trim)

/-- The command words of one line. -/
def assembleWords (line : List Char) : Option (List Cmd) := (assembleLine line).map fun is => is.map encode

end Sys2Proof.Machine
end

