-- ==== Sys2Proof/Safety.lean ====
section
/-! DEFINITION. What the claims call safe: the state invariants of 10_state.md R61 and 20_memory.md, and the words
in which a statement says what a command leaves alone. -/

namespace Sys2Proof.Machine

/-- A phase cursor in [0, 1) (R61, R259). -/
def inUnit (x : F32) : Bool := Fp.ge x Fp.pos0 && Fp.lt x Fp.one

/-- A binary32 in [-1, 1]; false of NaN. -/
def inBand (x : F32) : Bool := Fp.ge x Fp.negOne && Fp.le x Fp.one

/-- Every oscillator and LFO cursor of a transient is in [0, 1) (R61). -/
def OscState.cursorsInUnit (o : OscState) : Prop := inUnit o.phase = true ∧ ∀ d : DestIx, inUnit o.lfoPh[d] = true

/-- The voice invariants of R61 and R60: a died voice is not alive; a voice that is not alive was released at or
before its present time; KEY is 0..127 or "no key", and 0..127 while the key is held; every cursor is in [0, 1). -/
structure Voice.Inv (v : Voice) : Prop where
  diedNotAlive : v.died = true → v.alive = false
  relLeTime    : v.alive = false → v.relTime.toNat ≤ v.time.toNat
  keyLegal     : v.key.toNat ≤ 127 ∨ v.key = 0xFF#8
  heldKey      : v.alive = true → v.key.toNat ≤ 127
  cursors      : ∀ o : OscIx, (v.osc[o]).cursorsInUnit

/-- The invariant every step keeps: the voices' invariants, the buffer in canonical form with its indices below
44100, both FIFOs within their depths, and a command in flight only while it has a word to give. -/
structure State.Inv (s : State) : Prop where
  voices  : ∀ v : Slot, (s.voice v).Inv
  buf     : Memory.wf s.buf
  cmdFits : s.cmdFifo.length ≤ Config.cmdFifoDepth
  rspFits : s.rspFifo.length ≤ Config.rspFifoDepth
  waits   : ∀ p, s.inFlight = some p → p.words ≠ []

/-- At most one voice that is not died holds a given key 0..127 (R61). -/
def OneVoicePerKey (s : State) : Prop :=
  ∀ (key : BitVec 8) (u v : Slot), key.toNat ≤ 127 → holdsKey (s.voice u) key = true →
    holdsKey (s.voice v) key = true → u = v

/-- The output buffer reads the same everywhere. -/
def SameFrames (s t : State) : Prop := ∀ i : Nat, Memory.read t.buf i = Memory.read s.buf i

/-- Every mapped register but those of `except` reads the same. -/
def SameRegsBut (except : Reg → Prop) (s t : State) : Prop := ∀ r : Reg, ¬ except r → readReg r t = readReg r s

/-- Every mapped register reads the same. -/
def SameRegs (s t : State) : Prop := ∀ r : Reg, readReg r t = readReg r s

/-- The command FIFO and the host's side are unchanged. -/
def SamePorts (s t : State) : Prop := t.cmdFifo = s.cmdFifo ∧ t.port = s.port

/-- No response is produced and none is waited for. -/
def NoResponse (s t : State) : Prop := t.rspFifo = s.rspFifo ∧ t.inFlight = s.inFlight

/-- There is room for `n` more response words. -/
def RoomFor (n : Nat) (s : State) : Prop := s.rspFifo.length + n ≤ Config.rspFifoDepth

/-- The words of `ws` were appended in order and the command is complete. -/
def Responded (ws : List U32) (s t : State) : Prop := t.rspFifo = s.rspFifo ++ ws ∧ t.inFlight = none

/-- The register is one of voice `v`'s. -/
def ofVoice (v : Slot) (r : Reg) : Prop := ∃ x, r = .voice v x

/-- The words still waiting in `Respond`. -/
def waitingWords (s : State) : List U32 :=
  match s.inFlight with
  | none => []
  | some p => p.words

/-- The one error a command word raises, if any: the checks of R212 in their order (R555). -/
def wordError (w : Cmd) : Option CmdError :=
  match decode w with
  | .reservedOpcode => some .opcode
  | .reservedBits _ _ => some .reserved
  | .instr i => operandError i

/-- How many response words a command word gives, on success and on error alike (R557); a reserved opcode gives
none. -/
def wordResponses (w : Cmd) : Nat :=
  match opcodeOf (opByte w) with
  | none => 0
  | some op => responseCount op (fieldLow w)

/-- The slots a sample visits, by the mode (R471): every slot in Poly, the slot ARP_VOICE names in Arpeggio (`t` is a
state of the block, after its arpeggio update), slot 0 in Portamento. -/
def VisitsSlot (s t : State) (v : Slot) : Prop :=
  s.cfg.mode = .poly ∨ (s.cfg.mode = .arpeggio ∧ v = t.arpVoice) ∨ (s.cfg.mode = .portamento ∧ v = 0)

/-- What a visit to voice `v` makes of it, of the running sum and of the generator, at base pitch `pitch` before the
bend (R474 to R478): a died voice is skipped; a voice whose amplitude is exactly 0 only ages, and dies if its envelope
has expired; any other runs oscillator 0, oscillator 1 and the filter and adds its contribution. -/
def SampledVoice (c : Cfg) (pitch : F32) (v v' : Voice) (acc acc' : F32) (g g' : Prng) : Prop :=
  let w := ageVoice v
  let a := envEval c w .amp
  let nb := Fp.add pitch (Fp.mul c.pitchBend Fp.two)
  let r0 := oscStep fns c.osc[(0 : OscIx)] (Fp.sec w.time) nb Fp.pos0 w.osc[(0 : OscIx)] g
  let r1 := oscStep fns c.osc[(1 : OscIx)] (Fp.sec w.time) nb r0.sum w.osc[(1 : OscIx)] r0.prng
  let fl := filterStep fns c r1.sum w.filter
  let mixed := Fp.lerp r1.sum fl.fout (Fp.mul (envEval c w .flt).1 c.filterDrive)
  (v.died = true → v' = v ∧ acc' = acc ∧ g' = g) ∧
  (v.died = false → Fp.eq a.1 Fp.pos0 = true → v' = { w with died := a.2 } ∧ acc' = acc ∧ g' = g) ∧
  (v.died = false → Fp.eq a.1 Fp.pos0 = false →
    v' = { w with filter := fl, osc := #v[r0.osc, r1.osc] } ∧
    acc' = Fp.add acc (Fp.mul (Fp.mul (Fp.mul mixed a.1) w.vel) Fp.c0_5) ∧ g' = r1.prng)

/-- Run commands one after another by their meanings. -/
def execAll : List Instr → State → Host.Outcome State Fault Refusal
  | [], s => .next s
  | i :: is, s =>
    match exec i s with
    | .next t => execAll is t
    | .fault f => .fault f
    | .refused r => .refused r

end Sys2Proof.Machine
end

