-- ==== Sys2Proof/Certificates/Slice0/Obligations.lean ====
section
/-! DEFINITION. The statements for the provers. Each docstring names the rule or section it formalises. "Word" is a
64-bit command word; `blockMove` is the block's half of a step. -/

open Sys2Proof Sys2Proof.Machine

/-! ## Encoding and the step -/

/-- R202, R203, R205: every command, with every operand value, decodes from the word it encodes to. -/
def Obligations.DecodeOfEncode : Prop := ∀ i : Instr, decode (encode i) = .instr i

/-- R205, R210: a word that decodes has no bit the command does not carry. -/
def Obligations.EncodeOfDecode : Prop := ∀ (w : Cmd) (i : Instr), decode w = .instr i → encode i = w

/-- 95_test_vectors.md 2.1 and the table of 60_exceptions.md R569: words of the spec and what they stand for. -/
def Obligations.SpecExampleWordsDecode : Prop :=
  decode 0x0000000000000000#64 = .instr .nop ∧
  decode 0x010045003F800000#64 = .instr (.noteOn 0#8 69#8 0x3F800000#32) ∧
  decode 0x01033C003F000000#64 = .instr (.noteOn 3#8 60#8 0x3F000000#32) ∧
  decode 0x02003C0000000000#64 = .instr (.noteOff 0#8 60#8) ∧
  decode 0x030000000000AC44#64 = .instr (.render 44100#32) ∧
  decode 0x040000133DCCCCCD#64 = .instr (.cfgWrite 0x0013#16 0x3DCCCCCD#32) ∧
  decode 0x0500104400000000#64 = .instr (.regRead 0x1044#16) ∧
  decode 0x0600000000000000#64 = .instr .popOutput ∧
  decode 0x0701000000000008#64 = .instr (.renderScope 1#8 8#32) ∧
  decode 0x0800000000000000#64 = .reservedOpcode ∧
  decode 0xFF00000000000000#64 = .reservedOpcode ∧
  decode 0x0000000000000001#64 = .reservedBits .nop 1#32 ∧
  decode 0x0100000100000000#64 = .reservedBits .noteOn 0#32 ∧
  decode 0x0601000000000000#64 = .reservedBits .popOutput 0#32 ∧
  decode 0x0300000100000000#64 = .reservedBits .render 0#32

/-- R151: "The set of mapped addresses is exactly the addresses listed in the tables": an address names a register
just when it is that register's address. -/
def Obligations.RegisterMapIsTheTables : Prop :=
  ∀ (a : BitVec 16) (r : Reg), regOfAddr a = some r ↔ regAddr r = a.toNat

/-- R170, R201, D2: when the host has no move to make and no command is waiting in `Respond`, a step takes the word
at the head of the command FIFO and, when it decodes, is `exec` of it on the state without that word. What step
adds is the host's spent `pass` (the model's choice, log entry 9). -/
def Obligations.StepRunsTheDecodedCommand : Prop :=
  ∀ (s : State) (w : Cmd) (rest : List Cmd) (i : Instr),
    hostMove s = none → s.inFlight = none → s.cmdFifo = w :: rest → decode w = .instr i →
    step s = exec i ((spendPass s).setCmdFifo rest)

/-- R14, R611, R621, I9: a command in flight goes on responding and no other is taken. With room for all its words
they join the FIFO in order, what follows them happens (POP_OUTPUT's read cursor advances) and the command is complete;
without, as many as fit join it, which fills a FIFO that was within its depth, the rest wait behind and the read cursor is
kept; with no room at all nothing changes. No word is lost or reordered, at least one is delivered when there is room, and nothing else changes.
With an empty command FIFO and no command in flight the block changes nothing. R90, R170, R177: a push by the host with
room appends its word at the tail of the command FIFO, a pop takes the head word of a response FIFO that is not empty,
and neither changes any
other state of the block; a push or pop that cannot be made, a `pass` and an empty agenda leave the step to the
block. The model's choices here: one step delivers as many words as fit (log entry 7), a waiting or idle block takes a
step to the same state (log entry 8), and the host's agenda with its `pass` and its record of popped words, so
`hostMove` and `spendPass` (log entry 9). -/
def Obligations.BlockWaitsAndRests : Prop :=
  (∀ (s : State) (p : InFlight), s.inFlight = some p → hostMove s = none → step s = blockMove (spendPass s)) ∧
  (∀ (s : State) (p : InFlight), s.inFlight = some p → ∃ t, blockMove s = .next t ∧
    t.rspFifo ++ waitingWords t = s.rspFifo ++ p.words ∧
    (RoomFor 1 s → p.words ≠ [] → s.rspFifo.length < t.rspFifo.length) ∧
    (RoomFor p.words.length s → t.inFlight = none ∧
      t.readCursor.val = if p.after = .advanceRead then (s.readCursor.val + 1) % 44100 else s.readCursor.val) ∧
    (¬ RoomFor p.words.length s → p.words ≠ [] → ∃ ws, ws ≠ [] ∧ t.inFlight = some ⟨ws, p.after⟩ ∧
      t.readCursor = s.readCursor ∧ (RoomFor 0 s → t.rspFifo.length = Config.rspFifoDepth)) ∧
    SameRegsBut (· = .stat .readCursor) s t ∧ SameFrames s t ∧ SamePorts s t) ∧
  (∀ (s : State) (p : InFlight), s.inFlight = some p → p.words ≠ [] → s.rspFifo.length = Config.rspFifoDepth →
    blockMove s = .next s) ∧
  (∀ s : State, s.inFlight = none → s.cmdFifo = [] → blockMove s = .next s) ∧
  (∀ (s : State) (w : Cmd) (rest : List PortEvent), s.port.agenda = .push w :: rest →
    (s.cmdFifo.length < Config.cmdFifoDepth →
      step s = .next ((s.setCmdFifo (s.cmdFifo ++ [w])).setPort ⟨rest, s.port.received⟩)) ∧
    (Config.cmdFifoDepth ≤ s.cmdFifo.length → step s = blockMove s)) ∧
  (∀ (s : State) (rest : List PortEvent), s.port.agenda = .pop :: rest →
    (∀ w ws, s.rspFifo = w :: ws →
      step s = .next ((s.setRspFifo ws).setPort ⟨rest, s.port.received ++ [w]⟩)) ∧
    (s.rspFifo = [] → step s = blockMove s)) ∧
  (∀ (s : State) (rest : List PortEvent), s.port.agenda = .pass :: rest →
    step s = blockMove (s.setPort ⟨rest, s.port.received⟩)) ∧
  (∀ s : State, s.port.agenda = [] → step s = blockMove s)

/-! ## Command errors -/

/-- R211, R550: a word whose opcode byte is 0x08..0xFF, and no other, sets E_OPCODE, is consumed, has no other effect
and gives no response. -/
def Obligations.ReservedOpcodeSetsEOpcode : Prop :=
  (∀ w : Cmd, decode w = .reservedOpcode ↔ 0x08 ≤ (opByte w).toNat) ∧
  ∀ (s : State) (w : Cmd) (rest : List Cmd), s.inFlight = none → s.cmdFifo = w :: rest → 0x08 ≤ (opByte w).toNat →
    blockMove s = .next ((s.setCmdFifo rest).setStatus (s.status ||| 1#4))

/-- R553: KEY above 127, OSC above 1 and an illegal value of an enumerated or bit register set E_VALUE; the legal sets
are those of R501, and every value of every other writable register is legal. A RENDER_SCOPE without room for its
zero words: `ErrorsAreEffectFree`. -/
def Obligations.IllegalValuesSetEValue : Prop :=
  (∀ (s : State) (ch key : BitVec 8) (vel : F32), 127 < key.toNat →
    exec (.noteOn ch key vel) s = .next ((s.setStatus (s.status ||| 8#4)).setInFlight none)) ∧
  (∀ (s : State) (ch key : BitVec 8), 127 < key.toNat →
    exec (.noteOff ch key) s = .next ((s.setStatus (s.status ||| 8#4)).setInFlight none)) ∧
  (∀ (s : State) (o : BitVec 8) (n : U32), 1 < o.toNat → RoomFor n.toNat s →
    exec (.renderScope o n) s =
      .next (((s.setStatus (s.status ||| 8#4)).setRspFifo (s.rspFifo ++ List.replicate n.toNat 0#32)).setInFlight none)) ∧
  (∀ (s : State) (a : BitVec 16) (r : Reg) (w : U32), regOfAddr a = some r → access r = .rw → legal r w = false →
    exec (.cfgWrite a w) s = .next ((s.setStatus (s.status ||| 8#4)).setInFlight none)) ∧
  (∀ w : U32, legal (.global .mode) w = decide (w.toNat ≤ 2) ∧ legal (.global .channel) w = decide (w.toNat ≤ 255)) ∧
  (∀ (w : U32) (o : OscIx) (d : DestIx), legal (.osc o .combine) w = decide (w.toNat ≤ 2) ∧
    legal (.lfo o d .shape) w = decide (w.toNat ≤ 4) ∧ legal (.lfo o d .flags) w = decide (w.toNat ≤ 3)) ∧
  (∀ (r : Reg) (w : U32), r ≠ .global .mode → r ≠ .global .channel → (∀ o, r ≠ .osc o .combine) →
    (∀ o d, r ≠ .lfo o d .shape ∧ r ≠ .lfo o d .flags) → legal r w = true)

/-- R552: a CFG_WRITE or REG_READ of an unmapped address and a CFG_WRITE of a read-only register set E_ADDRESS; the
read-only registers are the status and runtime registers but STATUS, and every voice register. -/
def Obligations.BadAddressesSetEAddress : Prop :=
  (∀ (s : State) (a : BitVec 16) (w : U32), regOfAddr a = none →
    exec (.cfgWrite a w) s = .next ((s.setStatus (s.status ||| 4#4)).setInFlight none)) ∧
  (∀ (s : State) (a : BitVec 16) (r : Reg) (w : U32), regOfAddr a = some r → access r = .ro →
    exec (.cfgWrite a w) s = .next ((s.setStatus (s.status ||| 4#4)).setInFlight none)) ∧
  (∀ (s : State) (a : BitVec 16), regOfAddr a = none → RoomFor 1 s →
    exec (.regRead a) s = .next (((s.setStatus (s.status ||| 4#4)).setRspFifo (s.rspFifo ++ [0#32])).setInFlight none)) ∧
  (∀ r : Reg, access r = .ro ↔ (∃ x, r = .stat x ∧ x ≠ .status) ∨ ∃ v x, r = .voice v x)

/-- R556, R557: a command word that raises an error, whichever, changes no register but its STATUS bit, no frame, no
FIFO but the responses, and gives as many zero words as the command would have given, in order, those without room
waiting; once they are given nothing else happens. -/
def Obligations.ErrorsAreEffectFree : Prop :=
  ∀ (w : Cmd) (e : CmdError) (s : State), wordError w = some e →
    ∃ t, runWord w s = .next t ∧ t.status = s.status ||| errorMask e ∧
      SameRegsBut (· = .stat .status) s t ∧ SameFrames s t ∧ SamePorts s t ∧
      t.rspFifo ++ waitingWords t = s.rspFifo ++ List.replicate (wordResponses w) 0#32 ∧
      ∀ p, t.inFlight = some p → p.after = .nothing

/-- R555: a word that passes the checks raises nothing, so STATUS is unchanged unless the word is a CFG_WRITE of
STATUS, which can only clear bits (R503, R554). -/
def Obligations.PassingWordsRaiseNothing : Prop :=
  ∀ (w : Cmd) (s : State), wordError w = none →
    ∃ t, runWord w s = .next t ∧ t.status &&& ~~~s.status = 0#4 ∧
      ((∀ x, decode w ≠ .instr (.cfgWrite 0x0800#16 x)) → t.status = s.status)

/-! ## NOP, CFG_WRITE, REG_READ -/

/-- R500: a NOP has no effect on any state. -/
def Obligations.NopHasNoEffect : Prop := ∀ s : State, exec .nop s = .next s

/-- R501, R155: a CFG_WRITE of a legal value to an RW register makes it read as the value written (NaN payloads and
signed zeros included, R253), and changes no other register, no frame, no FIFO and no response. -/
def Obligations.CfgWriteSetsItsRegisterAlone : Prop :=
  ∀ (s : State) (a : BitVec 16) (r : Reg) (w : U32), regOfAddr a = some r → access r = .rw → legal r w = true →
    ∃ t, exec (.cfgWrite a w) s = .next t ∧ readReg r t = w ∧ SameRegsBut (· = r) s t ∧ SameFrames s t ∧
      SamePorts s t ∧ NoResponse s t

/-- R503: write one to clear, bits 31:4 ignored; a STATUS write with a reserved bit set clears nothing. -/
def Obligations.StatusWriteClearsOnes : Prop :=
  (∀ (s : State) (w : U32), ∃ st : BitVec 4, exec (.cfgWrite 0x0800#16 w) s = .next (s.setStatus st) ∧
    ∀ i : Fin 4, st.getLsbD i = (s.status.getLsbD i && !w.getLsbD i)) ∧
  (∀ (w : Cmd) (s : State), opByte w = 0x04#8 → fieldHi w ≠ 0#8 →
    runWord w s = .next ((s.setStatus (s.status ||| 2#4)).setInFlight none))

/-- R502: a REG_READ of a mapped register responds with its pattern and does nothing else; with no room the word
waits. -/
def Obligations.RegReadRespondsWithThePattern : Prop :=
  ∀ (s : State) (a : BitVec 16) (r : Reg), regOfAddr a = some r →
    (RoomFor 1 s → exec (.regRead a) s = .next ((s.setRspFifo (s.rspFifo ++ [readReg r s])).setInFlight none)) ∧
    (¬ RoomFor 1 s → exec (.regRead a) s = .next (s.setInFlight (some ⟨[readReg r s], .nothing⟩)))

/-- R58, R502: ID and VERSION are constants, and the packed registers read their unused bits as 0: KEY uses bits 7:0,
the voice FLAGS are ALIVE in bit 0 and DIED in bit 1, the LFO FLAGS two bits, STATUS bits 3:0. -/
def Obligations.PackedRegistersReadTheirFields : Prop :=
  ∀ s : State,
    readReg (.stat .id) s = 0x50534F43#32 ∧ readReg (.stat .version) s = 1#32 ∧
    (readReg (.stat .status) s).toNat = s.status.toNat ∧
    (∀ v : Slot, (readReg (.voice v .key) s).toNat = (s.voice v).key.toNat ∧
      (readReg (.voice v .flags) s).toNat = (s.voice v).alive.toNat + 2 * (s.voice v).died.toNat) ∧
    (∀ (o : OscIx) (d : DestIx), (readReg (.lfo o d .flags) s).toNat =
      (s.cfg.osc[o].lfo[d]).noteSync.toNat + 2 * (s.cfg.osc[o].lfo[d]).zeroCentered.toNat)

/-! ## Note events -/

/-- R431: the search order (a) a voice holding the key, (b) a died voice, (c) an idle voice, lowest slot first in
each step; it fails only when no voice holds the key, none is died and all six are held. -/
def Obligations.AllocSearchesHolderDiedIdle : Prop :=
  ∀ (key : BitVec 8) (s : State),
    (∀ v : Slot, alloc key s = some v →
      (holdsKey (s.voice v) key = true ∧ ∀ u < v, holdsKey (s.voice u) key = false) ∨
      ((∀ u, holdsKey (s.voice u) key = false) ∧ (s.voice v).died = true ∧ ∀ u < v, (s.voice u).died = false) ∨
      ((∀ u, holdsKey (s.voice u) key = false ∧ (s.voice u).died = false) ∧ (s.voice v).alive = false ∧
        ∀ u < v, (s.voice u).alive = true)) ∧
    (alloc key s = none ↔
      ∀ u, (s.voice u).died = false ∧ (s.voice u).alive = true ∧ (s.voice u).key ≠ key)

/-- R433, R336: in Poly and Arpeggio mode a NOTE_ON on the block's channel assigns the voice the search finds: both
envelopes are captured on the old state, KEY, VEL and TIME are set, ALIVE is set and DIED cleared, the LFO cursors
with NOTE_SYNC restart at `+0.0`; REL_TIME, the oscillator phases, the smoothed samples and the filter keep their
values, and so does everything outside the voice. -/
def Obligations.NoteOnAssignsTheVoice : Prop :=
  ∀ (s : State) (ch key : BitVec 8) (vel : F32) (v : Slot),
    key.toNat ≤ 127 → ch = s.cfg.channel → s.cfg.mode ≠ .portamento → alloc key s = some v →
    ∃ t, exec (.noteOn ch key vel) s = .next t ∧
      (t.voice v).savedAmp = envCapture s.cfg (s.voice v) .amp ∧
      (t.voice v).savedFlt = envCapture s.cfg (s.voice v) .flt ∧
      (t.voice v).key = key ∧ (t.voice v).vel = vel ∧ (t.voice v).time = 0#32 ∧
      (t.voice v).alive = true ∧ (t.voice v).died = false ∧
      (t.voice v).relTime = (s.voice v).relTime ∧ (t.voice v).filter = (s.voice v).filter ∧
      (∀ o : OscIx, (t.voice v).osc[o].phase = (s.voice v).osc[o].phase ∧
        (t.voice v).osc[o].prev = (s.voice v).osc[o].prev ∧
        ∀ d : DestIx, (t.voice v).osc[o].lfoPh[d] =
          if (s.cfg.osc[o].lfo[d]).noteSync then 0#32 else (s.voice v).osc[o].lfoPh[d]) ∧
      SameRegsBut (ofVoice v) s t ∧ SameFrames s t ∧ SamePorts s t ∧ NoResponse s t

/-- R430, R441: with six held voices and none of them on the key, the note is dropped: no state changes and no held
voice is interrupted. -/
def Obligations.NoteOnIsDroppedWhenAllAreHeld : Prop :=
  ∀ (s : State) (ch key : BitVec 8) (vel : F32), key.toNat ≤ 127 → s.cfg.mode ≠ .portamento →
    (∀ u, (s.voice u).alive = true ∧ (s.voice u).died = false ∧ (s.voice u).key ≠ key) →
    exec (.noteOn ch key vel) s = .next s

/-- R438: a note event on another channel completes without any effect and without an error. -/
def Obligations.OtherChannelNotesAreIgnored : Prop :=
  ∀ (s : State) (ch key : BitVec 8) (vel : F32), key.toNat ≤ 127 → ch ≠ s.cfg.channel →
    exec (.noteOn ch key vel) s = .next s ∧ exec (.noteOff ch key) s = .next s

/-- R436: the Portamento note-on. With voice 0 sounding and a positive glide time the target and the rate are set and
the pitch stays; else the pitch jumps with rate `+0.0`. Voice 0 is always assigned as R433 says. -/
def Obligations.PortamentoNoteOnGlidesVoiceZero : Prop :=
  ∀ (s : State) (ch key : BitVec 8) (vel : F32), key.toNat ≤ 127 → ch = s.cfg.channel → s.cfg.mode = .portamento →
    ∃ g : Glide,
      exec (.noteOn ch key vel) s = .next ((s.setGlide g).setVoice 0 (assignVoice s.cfg key vel (s.voice 0))) ∧
      ((s.voice 0).alive = true → Fp.gt s.cfg.portaTime Fp.pos0 = true →
        g = ⟨s.glide.cur, Fp.ofInt key.toNat, Fp.div (Fp.sub (Fp.ofInt key.toNat) s.glide.cur) s.cfg.portaTime⟩) ∧
      ((s.voice 0).alive = false ∨ Fp.gt s.cfg.portaTime Fp.pos0 = false →
        g = ⟨Fp.ofInt key.toNat, Fp.ofInt key.toNat, 0#32⟩)

/-- R432, source property T2: the note-off search finds the lowest held voice with the key, or none; a NOTE_OFF with no
held voice for its key changes no state, in every mode. -/
def Obligations.NoteOffMatchesTheLowestHeldVoice : Prop :=
  ∀ (key : BitVec 8) (s : State),
    (∀ ch : BitVec 8, key.toNat ≤ 127 → (∀ u, ¬ ((s.voice u).alive = true ∧ (s.voice u).key = key)) →
      exec (.noteOff ch key) s = .next s) ∧
    (∀ v : Slot, matchOff key s = some v ↔
      ((s.voice v).alive = true ∧ (s.voice v).key = key) ∧
        ∀ u < v, ¬ ((s.voice u).alive = true ∧ (s.voice u).key = key)) ∧
    (matchOff key s = none ↔ ∀ u, ¬ ((s.voice u).alive = true ∧ (s.voice u).key = key))

/-- R434: in Poly and Arpeggio mode a NOTE_OFF releases the matched voice: both envelopes are captured on the held
state, REL_TIME takes TIME, ALIVE is cleared; KEY, VEL, TIME, DIED, oscillators and filter are unchanged, and so is
everything outside the voice. -/
def Obligations.NoteOffReleasesTheVoice : Prop :=
  ∀ (s : State) (ch key : BitVec 8) (v : Slot),
    key.toNat ≤ 127 → ch = s.cfg.channel → s.cfg.mode ≠ .portamento → matchOff key s = some v →
    ∃ t, exec (.noteOff ch key) s = .next t ∧
      (t.voice v).savedAmp = envCapture s.cfg (s.voice v) .amp ∧
      (t.voice v).savedFlt = envCapture s.cfg (s.voice v) .flt ∧
      (t.voice v).relTime = (s.voice v).time ∧ (t.voice v).alive = false ∧
      (t.voice v).key = (s.voice v).key ∧ (t.voice v).vel = (s.voice v).vel ∧ (t.voice v).time = (s.voice v).time ∧
      (t.voice v).died = (s.voice v).died ∧ (t.voice v).osc = (s.voice v).osc ∧
      (t.voice v).filter = (s.voice v).filter ∧
      SameRegsBut (ofVoice v) s t ∧ SameFrames s t ∧ SamePorts s t ∧ NoResponse s t

/-- R440: in Portamento mode a NOTE_OFF examines voice 0 only: it releases voice 0 when it is held on the key, and
does nothing else otherwise; no NOTE_OFF changes the glide. -/
def Obligations.PortamentoNoteOffExaminesVoiceZero : Prop :=
  ∀ (s : State) (ch key : BitVec 8), key.toNat ≤ 127 → ch = s.cfg.channel → s.cfg.mode = .portamento →
    ((s.voice 0).alive = true ∧ (s.voice 0).key = key →
      exec (.noteOff ch key) s = .next (s.setVoice 0 (releaseVoice s.cfg (s.voice 0)))) ∧
    (¬ ((s.voice 0).alive = true ∧ (s.voice 0).key = key) → exec (.noteOff ch key) s = .next s)

/-! ## Envelopes -/

/-- R301: `env_eval` branch by branch. A held voice never reports `expired` (R435). -/
def Obligations.EnvelopeEvaluatesByBranch : Prop :=
  ∀ (c : Cfg) (v : Voice) (w : EnvSel),
    let e := envCfg c w
    let t := Fp.sec v.time
    let re := Fp.sec (v.time - v.relTime)
    let r5 := Fp.mul e.release Fp.five
    let s0 := savedValue v w
    (v.alive = true → Fp.gt t (Fp.add e.attack e.decay) = true → envEval c v w = (e.sustain, false)) ∧
    (v.alive = true → Fp.gt t (Fp.add e.attack e.decay) = false → Fp.gt t e.attack = true →
      Fp.gt e.decay Fp.pos0 = true →
      envEval c v w = (Fp.lerp Fp.one e.sustain (Fp.div (Fp.sub t e.attack) e.decay), false)) ∧
    (v.alive = true → Fp.gt t (Fp.add e.attack e.decay) = false →
      (Fp.gt t e.attack = false ∨ Fp.gt e.decay Fp.pos0 = false) → Fp.gt e.attack Fp.pos0 = true →
      envEval c v w = (Fp.lerp s0 Fp.one (Fp.div t e.attack), false)) ∧
    (v.alive = true → Fp.gt t (Fp.add e.attack e.decay) = false →
      (Fp.gt t e.attack = false ∨ Fp.gt e.decay Fp.pos0 = false) → Fp.gt e.attack Fp.pos0 = false →
      envEval c v w = (0#32, false)) ∧
    (v.alive = false → Fp.gt e.release Fp.pos0 = true → Fp.lt re r5 = true →
      envEval c v w = (Fp.mul s0 (Fp.sub Fp.one (Fp.div re r5)), false)) ∧
    (v.alive = false → (Fp.gt e.release Fp.pos0 = false ∨ Fp.lt re r5 = false) → envEval c v w = (0#32, true))

/-- R303: corners of the held branch. With attack and decay `+0.0` the value is `+0.0` at TIME 0 and the sustain level
from TIME 1 on; with attack `+0.0` and a positive decay it is `+0.0` at TIME 0; with a positive attack, a decay that
is not negative and a finite saved value it equals the saved value at TIME 0. -/
def Obligations.HeldEnvelopeCorners : Prop :=
  ∀ (c : Cfg) (v : Voice) (w : EnvSel), v.alive = true →
    ((envCfg c w).attack = 0#32 → (envCfg c w).decay = 0#32 → v.time = 0#32 → (envEval c v w).1 = 0#32) ∧
    ((envCfg c w).attack = 0#32 → (envCfg c w).decay = 0#32 → v.time ≠ 0#32 →
      (envEval c v w).1 = (envCfg c w).sustain) ∧
    ((envCfg c w).attack = 0#32 → Fp.gt (envCfg c w).decay Fp.pos0 = true → v.time = 0#32 →
      (envEval c v w).1 = 0#32) ∧
    (Fp.gt (envCfg c w).attack Fp.pos0 = true → Fp.lt (envCfg c w).decay Fp.pos0 = false →
      Fp.isFinite (savedValue v w) = true → v.time = 0#32 →
      Fp.eq (envEval c v w).1 (savedValue v w) = true)

/-- R305: a died voice captures `0.0`; any other captures its present envelope value. -/
def Obligations.CaptureOfDiedVoiceIsZero : Prop :=
  ∀ (c : Cfg) (v : Voice) (w : EnvSel),
    (v.died = true → envCapture c v w = 0#32) ∧ (v.died = false → envCapture c v w = (envEval c v w).1)

/-- R442, source property T3: after a NOTE_ON the amplitude envelope evaluated at TIME 0 equals the value captured at
the NOTE_ON, when AMP_ATTACK is positive, AMP_DECAY is not negative and the captured value is finite. -/
def Obligations.RetriggerStartsFromTheCapturedValue : Prop :=
  ∀ (s : State) (ch key : BitVec 8) (vel : F32) (v : Slot),
    key.toNat ≤ 127 → ch = s.cfg.channel → s.cfg.mode ≠ .portamento → alloc key s = some v →
    Fp.gt s.cfg.amp.attack Fp.pos0 = true → Fp.lt s.cfg.amp.decay Fp.pos0 = false →
    Fp.isFinite (envCapture s.cfg (s.voice v) .amp) = true →
    ∃ t, exec (.noteOn ch key vel) s = .next t ∧
      Fp.eq (envEval t.cfg (t.voice v) .amp).1 (envCapture s.cfg (s.voice v) .amp) = true

/-! ## RENDER -/

/-- R470, R161: a RENDER always completes, advances the write cursor by its count modulo 44100, and writes only the
write cursor, the generator, the arpeggio registers in Arpeggio mode, GLIDE_CUR in Portamento mode, and of the
voices the time, the DIED flag, the filter and the oscillator transients; ALIVE never changes and DIED is never
cleared (R435). It gives no response. -/
def Obligations.RenderCompletesAndKeepsTheRest : Prop :=
  ∀ (s : State) (n : U32), ∃ t, exec (.render n) s = .next t ∧
    t.writeCursor.val = (s.writeCursor.val + n.toNat) % 44100 ∧
    SameRegsBut (fun r => r = .stat .writeCursor ∨ r = .global .prngA ∨ r = .global .prngB ∨
      (s.cfg.mode = .arpeggio ∧ (r = .stat .arpIndex ∨ r = .stat .arpVoice)) ∨
      (s.cfg.mode = .portamento ∧ r = .stat .glideCur) ∨
      ∃ v x, r = .voice v x ∧ x ≠ .key ∧ x ≠ .vel ∧ x ≠ .relTime ∧ x ≠ .savedAmp ∧ x ≠ .savedFlt) s t ∧
    (∀ v, (t.voice v).alive = (s.voice v).alive ∧ ((s.voice v).died = true → (t.voice v).died = true)) ∧
    SamePorts s t ∧ NoResponse s t

/-- R161, R479: a RENDER stores to the `n` frames from the write cursor on, modulo 44100, and every other frame reads
as before. -/
def Obligations.RenderStoresOnlyItsFrames : Prop :=
  ∀ (s t : State) (n : U32), Memory.wf s.buf → exec (.render n) s = .next t →
    ∀ i : Nat, (∀ k < n.toNat, i ≠ (s.writeCursor.val + k) % 44100) → Memory.read t.buf i = Memory.read s.buf i

/-- R479: the frame a sample writes at the write cursor is the voice sum clamped to [-1, 1], then scaled by each
gain; a NaN sum gives the frame of `-1.0`; the cursor advances modulo 44100. -/
def Obligations.RenderWritesTheClampedScaledSum : Prop :=
  ∀ s : State, Memory.wf s.buf → ∃ t, exec (.render 1#32) s = .next t ∧
    t.writeCursor.val = (s.writeCursor.val + 1) % 44100 ∧
    Memory.read t.buf s.writeCursor.val =
      ⟨Fp.mul (Fp.clamp (mixVoices fns (beginBlock s)).1 Fp.negOne Fp.one) s.cfg.gainL,
        Fp.mul (Fp.clamp (mixVoices fns (beginBlock s)).1 Fp.negOne Fp.one) s.cfg.gainR⟩ ∧
    (Fp.isNaN (mixVoices fns (beginBlock s)).1 = true →
      Memory.read t.buf s.writeCursor.val = ⟨Fp.mul Fp.negOne s.cfg.gainL, Fp.mul Fp.negOne s.cfg.gainR⟩)

/-- R470, R472, R480, R615: outside Arpeggio mode a block of `m + n` samples is a block of `m` and then one of `n`. In
Arpeggio mode, where the update runs once per block, it is a block of `m` and then `n` more samples on the ARP_VOICE that
block selected, with no further update: the arpeggio registers stay as the block of `m` left them, and everything is as
after a block of `n` that starts with those registers put back, so that its update selects the same voice again. -/
def Obligations.RenderSplitsIntoBlocks : Prop :=
  (∀ (s : State) (m n : U32), s.cfg.mode ≠ .arpeggio → m.toNat + n.toNat < 2 ^ 32 →
    execAll [.render m, .render n] s = exec (.render (m + n)) s) ∧
  (∀ (s : State) (m n : U32), s.cfg.mode = .arpeggio → m.toNat + n.toNat < 2 ^ 32 →
    ∃ t r, exec (.render m) s = .next t ∧ exec (.render (m + n)) s = .next r ∧
      exec (.render n) (t.setArp s.arpIndex s.arpVoice) = .next r ∧
      r.arpVoice = t.arpVoice ∧ r.arpIndex = t.arpIndex)

/-- R470, D19: a RENDER of 0 samples changes nothing in Poly and Portamento mode, and in Arpeggio mode only the
arpeggio index and slot. -/
def Obligations.RenderZeroOnlyMovesTheArpeggio : Prop :=
  (∀ s : State, s.cfg.mode ≠ .arpeggio → exec (.render 0#32) s = .next s) ∧
  (∀ s : State, s.cfg.mode = .arpeggio → ∃ i v, exec (.render 0#32) s = .next (s.setArp i v))

/-- R472: once per block in Arpeggio mode the note table is the held voices in slot order; with `N > 0` of them the
index is reduced modulo `2N`, selects entry `index >> 1`, and advances modulo `2N`; with none it restarts at 0 and
the rendered slot stays. -/
def Obligations.ArpeggioUpdateSelectsHeldVoices : Prop :=
  ∀ (s : State) (n : U32), s.cfg.mode = .arpeggio →
    (heldSlots s).Pairwise (· < ·) ∧ (∀ v, v ∈ heldSlots s ↔ (s.voice v).alive = true) ∧
    ∃ t, exec (.render n) s = .next t ∧
      (heldSlots s = [] → t.arpIndex.val = 0 ∧ t.arpVoice = s.arpVoice) ∧
      (heldSlots s ≠ [] →
        (heldSlots s)[(s.arpIndex.val % (2 * (heldSlots s).length)) >>> 1]? = some t.arpVoice ∧
        t.arpIndex.val = (s.arpIndex.val % (2 * (heldSlots s).length) + 1) % (2 * (heldSlots s).length))

/-- R483, source property T6, over a run of RENDER commands alone (R483 allows other commands between the blocks): with
the same held voices `T` throughout and ARP_INDEX 0 before block 0, block `i` of any counts (0 included) sounds the
voice `T[(i mod 2N) >> 1]`. -/
def Obligations.ArpeggioIndexLaw : Prop :=
  ∀ (s : State) (counts : List U32) (n : U32),
    s.cfg.mode = .arpeggio → s.arpIndex.val = 0 → heldSlots s ≠ [] →
    ∃ t, execAll ((counts ++ [n]).map .render) s = .next t ∧
      (heldSlots s)[(counts.length % (2 * (heldSlots s).length)) >>> 1]? = some t.arpVoice ∧
      visited t = [t.arpVoice] ∧ heldSlots t = heldSlots s

/-- R474: a RENDER of any length leaves a died voice wholly unchanged, and a visit to a died voice adds nothing to the
sum and draws no random number. -/
def Obligations.RenderSkipsDiedVoices : Prop :=
  (∀ (s : State) (n : U32) (v : Slot), (s.voice v).died = true →
    ∃ t, exec (.render n) s = .next t ∧ t.voice v = s.voice v) ∧
  (∀ (s : State) (acc : F32) (v : Slot), (s.voice v).died = true → renderSlot fns (acc, s) v = (acc, s))

/-- R471: in Arpeggio mode only the slot ARP_VOICE selects, in Portamento mode only slot 0 is advanced; every other
voice holds. -/
def Obligations.RenderHoldsUnvisitedVoices : Prop :=
  ∀ (s : State) (n : U32), ∃ t, exec (.render n) s = .next t ∧
    (s.cfg.mode = .arpeggio → ∀ v, v ≠ t.arpVoice → t.voice v = s.voice v) ∧
    (s.cfg.mode = .portamento → ∀ v, v ≠ 0 → t.voice v = s.voice v)

/-- R471, R475, R482: a sample of a voice that its mode visits (every slot in Poly, ARP_VOICE in Arpeggio, slot 0 in
Portamento) and that is not died advances its TIME by one, saturating at 0xFFFFFFFF, and
marks it died exactly when its amplitude envelope, evaluated after the advance, has expired: never while it is held,
and for a released voice exactly when R is not positive or the release window `R * 5` has passed. -/
def Obligations.SampleAdvancesTimeAndMayKill : Prop :=
  ∀ (s : State) (v : Slot), (s.voice v).died = false →
    ∃ t, exec (.render 1#32) s = .next t ∧ (VisitsSlot s t v →
      (t.voice v).time.toNat = min ((s.voice v).time.toNat + 1) 0xFFFFFFFF ∧
      ((s.voice v).alive = true → (t.voice v).died = false) ∧
      ((s.voice v).alive = false →
        ((t.voice v).died = false ↔ Fp.gt s.cfg.amp.release Fp.pos0 = true ∧
          Fp.lt (Fp.sec ((t.voice v).time - (s.voice v).relTime)) (Fp.mul s.cfg.amp.release Fp.five) = true)))

/-- R475, R337: a visited voice whose amplitude is exactly 0 after the advance is skipped for the rest of the sample:
only TIME and DIED change, it contributes nothing and consumes no random number. -/
def Obligations.SilentVoiceIsSkipped : Prop :=
  (∀ (F : Config.Fns) (c : Cfg) (gc : F32) (v : Voice) (acc : F32) (g : Prng), v.died = false →
    Fp.eq (envEval c (ageVoice v) .amp).1 Fp.pos0 = true →
    voiceSample F c gc v acc g = ⟨acc, { ageVoice v with died := (envEval c (ageVoice v) .amp).2 }, g⟩) ∧
  (∀ (s : State) (v : Slot), (s.voice v).died = false →
    Fp.eq (envEval s.cfg (ageVoice (s.voice v)) .amp).1 Fp.pos0 = true →
    ∃ t, exec (.render 1#32) s = .next t ∧ (VisitsSlot s t v →
      t.voice v = { ageVoice (s.voice v) with died := (envEval s.cfg (ageVoice (s.voice v)) .amp).2 }))

/-- R471, R474 to R480: one sample in every mode. In Poly the sum starts at `+0.0`, slots 0 to 5 are visited in that
order, each with the sum and the generator the one before left, at the pitch of its own key; in Arpeggio the slot
ARP_VOICE alone, in Portamento slot 0 alone, at the glide pitch after the step. The last sum, clamped to [-1, 1] and
scaled by the gains, is the frame. -/
def Obligations.SoundingVoiceMakesTheFrame : Prop :=
  ∀ s : State, Memory.wf s.buf → ∃ (t : State) (sum : F32), exec (.render 1#32) s = .next t ∧
    Memory.read t.buf s.writeCursor.val =
      ⟨Fp.mul (Fp.clamp sum Fp.negOne Fp.one) s.cfg.gainL, Fp.mul (Fp.clamp sum Fp.negOne Fp.one) s.cfg.gainR⟩ ∧
    (s.cfg.mode = .poly → ∃ (acc : Fin 7 → F32) (g : Fin 7 → Prng),
      acc 0 = Fp.pos0 ∧ g 0 = s.prng ∧ acc 6 = sum ∧ g 6 = t.prng ∧
      ∀ v : Slot, SampledVoice s.cfg (Fp.ofInt (s.voice v).key.toNat) (s.voice v) (t.voice v)
        (acc v.castSucc) (acc v.succ) (g v.castSucc) (g v.succ)) ∧
    (s.cfg.mode = .arpeggio → SampledVoice s.cfg (Fp.ofInt (s.voice t.arpVoice).key.toNat) (s.voice t.arpVoice)
      (t.voice t.arpVoice) Fp.pos0 sum s.prng t.prng) ∧
    (s.cfg.mode = .portamento → SampledVoice s.cfg (glideStep s.glide).cur (s.voice 0) (t.voice 0) Fp.pos0 sum
      s.prng t.prng)

/-- R473: the per-sample glide: a positive rate steps up and stops at the target, a negative one steps down and stops
at it, a zero or NaN rate leaves the pitch; target and rate never change and the pitch cannot overshoot. A sample in Portamento
mode makes one step, whatever voice 0 is doing; in the other modes the glide holds. -/
def Obligations.GlideStepsAndStopsAtTheTarget : Prop :=
  (∀ s : State, ∃ t, exec (.render 1#32) s = .next t ∧
    t.glide = if s.cfg.mode = .portamento then glideStep s.glide else s.glide) ∧
  ∀ g : Glide,
    (glideStep g).target = g.target ∧ (glideStep g).rate = g.rate ∧
    (Fp.gt g.rate Fp.pos0 = true →
      (glideStep g).cur = (if Fp.gt (Fp.add g.cur (Fp.mul g.rate Fp.dt)) g.target then g.target
        else Fp.add g.cur (Fp.mul g.rate Fp.dt)) ∧ Fp.gt (glideStep g).cur g.target = false) ∧
    (Fp.lt g.rate Fp.pos0 = true →
      (glideStep g).cur = (if Fp.lt (Fp.add g.cur (Fp.mul g.rate Fp.dt)) g.target then g.target
        else Fp.add g.cur (Fp.mul g.rate Fp.dt)) ∧ Fp.lt (glideStep g).cur g.target = false) ∧
    (Fp.gt g.rate Fp.pos0 = false → Fp.lt g.rate Fp.pos0 = false → (glideStep g).cur = g.cur)

/-! ## LFO, oscillator, filter -/

/-- R330, R334: the LFO value by branch, and the phase advance of its own cursor in every branch. The generator moves
only in the running branch of a Random LFO. -/
def Obligations.LfoValueByBranch : Prop :=
  ∀ (F : Config.Fns) (c : OscCfg) (nt : F32) (d : DestIx) (b : LfoBank),
    let l := c.lfo[d]
    let w := wave F l.shape b.ph[d] b.prng
    let x := Fp.mul w.1 l.magnitude
    let y := if Fp.lt nt (Fp.add l.delay l.attack) then Fp.mul x (Fp.div (Fp.sub nt l.delay) l.attack) else x
    let r := lfoValue F c nt d b
    (Fp.gt nt l.delay = true → l.zeroCentered = false → r.1 = Fp.add (Fp.mul y l.base) l.base) ∧
    (Fp.gt nt l.delay = true → l.zeroCentered = true → r.1 = Fp.mul y l.base) ∧
    (Fp.gt nt l.delay = false → Fp.gt l.delay Fp.pos0 = true → l.zeroCentered = false →
      r.1 = Fp.mul l.base (Fp.div nt l.delay)) ∧
    (Fp.gt nt l.delay = false → Fp.gt l.delay Fp.pos0 = true → l.zeroCentered = true →
      r.1 = Fp.mul l.base (Fp.sub Fp.one (Fp.div nt l.delay))) ∧
    (Fp.gt nt l.delay = false → Fp.gt l.delay Fp.pos0 = false → r.1 = 0#32) ∧
    r.2.ph[d] = Fp.wrap (Fp.add b.ph[d] Fp.dt) ∧ (∀ e : DestIx, e ≠ d → r.2.ph[e] = b.ph[e]) ∧
    r.2.prng = (if Fp.gt nt l.delay = true ∧ l.shape = .random then prngNext b.prng else b.prng)

/-- R335: the generator's step is `B ^= A; A += B`, its output is in [-1, 1], and from the reset seeds it gives the four
words of R338. -/
def Obligations.GeneratorStepsAndStaysInBand : Prop :=
  (∀ g : Prng, (prngNext g).b = g.b ^^^ g.a ∧ (prngNext g).a = g.a + (prngNext g).b ∧
    prngOut g = Fp.mul (Fp.ofInt g.a.toInt) 0x30000000#32 ∧ inBand (prngOut g) = true) ∧
  (let g1 := prngNext Prng.reset
   let g2 := prngNext g1
   let g3 := prngNext g2
   g1 = ⟨0x3B782F49#32, 0xD16E48E2#32⟩ ∧ prngOut g1 = 0x3EEDE0BD#32 ∧ prngOut g2 = 0x3E963A5C#32 ∧
     prngOut g3 = 0xBDAD877B#32 ∧ prngOut (prngNext g3) = 0x3EBF9C05#32)

/-- R332, R333, R335: the five waveforms. Square, Saw and Triangle by their formulas, Sine through `FN_SIN`, none of the
four moving the generator; Random answers the output of the ADVANCED generator and leaves it advanced. The corner values
follow, and every shape but Random stays in [-1, 1] on a phase in [0, 1). -/
def Obligations.WaveformsStayInBand : Prop :=
  (∀ (F : Config.Fns) (p : F32) (g : Prng),
    (wave F .square p g).1 = (if Fp.lt p Fp.c0_5 then Fp.one else Fp.negOne) ∧
    (wave F .saw p g).1 = Fp.sub Fp.one (Fp.mul Fp.two p) ∧
    (Fp.lt p Fp.c0_25 = true → (wave F .triangle p g).1 = Fp.mul Fp.four p) ∧
    (Fp.lt p Fp.c0_25 = false → Fp.lt p Fp.c0_75 = true →
      (wave F .triangle p g).1 = Fp.sub Fp.two (Fp.mul Fp.four p)) ∧
    (Fp.lt p Fp.c0_25 = false → Fp.lt p Fp.c0_75 = false →
      (wave F .triangle p g).1 = Fp.sub (Fp.mul Fp.four p) Fp.four) ∧
    (wave F .sine p g).1 = F.sin (Fp.mul Fp.twoPi p) ∧
    (∀ sh : Shape, sh ≠ .random → (wave F sh p g).2 = g) ∧
    (wave F .random p g).1 = prngOut (prngNext g) ∧ (wave F .random p g).2 = prngNext g) ∧
  (∀ (F : Config.Fns) (g : Prng),
    (wave F .square 0#32 g).1 = Fp.one ∧ (wave F .square Fp.c0_5 g).1 = Fp.negOne ∧
    (wave F .saw 0#32 g).1 = Fp.one ∧ (wave F .saw Fp.c0_5 g).1 = 0#32 ∧
    (wave F .triangle 0#32 g).1 = 0#32 ∧ (wave F .triangle Fp.c0_25 g).1 = Fp.one ∧
    (wave F .triangle Fp.c0_5 g).1 = 0#32 ∧ (wave F .triangle Fp.c0_75 g).1 = Fp.negOne ∧
    (wave F .sine 0#32 g).1 = F.sin 0#32 ∧
    ∀ p : F32, inUnit p = true → Fp.gt (wave F .saw p g).1 Fp.negOne = true) ∧
  (∀ (sh : Shape) (p : F32) (g : Prng), sh ≠ .random → inUnit p = true → inBand (wave fns sh p g).1 = true)

/-- R361, R334, R370, R374: the six modulation values of an oscillator step are the LFO values of the destinations
Volume (4, floored at 0), Morph (1), Squish (2), Distort (3), Tune (0) and Decat (5), evaluated in that order, each on
the step's own cursors and on the generator the one before left. The step advances each cursor by one sample, and its
phase by the frequency plus the Tune value, floored at 0, over the sample rate; both wrap, so each is in [0, 1) after
the step, whatever the configuration and the cursors before. -/
def Obligations.OscillatorStepAdvancesItsCursors : Prop :=
  ∀ (F : Config.Fns) (c : OscCfg) (nt nb sum : F32) (o : OscState) (g : Prng),
    let vol := lfoValue F c nt 4 ⟨o.lfoPh, g⟩
    let morph := lfoValue F c nt 1 ⟨o.lfoPh, vol.2.prng⟩
    let squish := lfoValue F c nt 2 ⟨o.lfoPh, morph.2.prng⟩
    let dist := lfoValue F c nt 3 ⟨o.lfoPh, squish.2.prng⟩
    let tune := lfoValue F c nt 0 ⟨o.lfoPh, dist.2.prng⟩
    let dec := lfoValue F c nt 5 ⟨o.lfoPh, tune.2.prng⟩
    let m := (modulate F c nt ⟨o.lfoPh, g⟩).1
    let r := oscStep F c nt nb sum o g
    (m.vol = Fp.fmax vol.1 Fp.pos0 ∧ m.morph = morph.1 ∧ m.squish = squish.1 ∧ m.dist = dist.1 ∧ m.tune = tune.1 ∧
      m.dec = dec.1 ∧ r.prng = dec.2.prng) ∧
    (∀ d : DestIx, r.osc.lfoPh[d] = Fp.wrap (Fp.add o.lfoPh[d] Fp.dt)) ∧
    r.osc.phase = Fp.wrap (Fp.add o.phase (Fp.div (Fp.fmax (Fp.add (frequency F c nb) tune.1) Fp.pos0) Fp.rate)) ∧
    r.osc.cursorsInUnit

/-- R362: the octave register doubles, or halves, the equal-tempered frequency as many times as its signed value says,
rounding at every step. The model stops early where a step changes nothing. -/
def Obligations.OctaveShiftIsRepeatedScaling : Prop :=
  ∀ (F : Config.Fns) (c : OscCfg) (nb : F32),
    let f := Fp.mul Fp.c440 (F.pow Fp.semitone (Fp.sub (Fp.add nb (Fp.ofInt c.semitone.toInt)) Fp.c69))
    (0 ≤ c.octave.toInt → frequency F c nb = (fun x => Fp.mul x Fp.two)^[c.octave.toInt.toNat] f) ∧
    (c.octave.toInt ≤ 0 → frequency F c nb = (fun x => Fp.mul x Fp.c0_5)^[(-c.octave.toInt).toNat] f)

/-- R363 to R369: the new PREV of an oscillator step is the cursor, decimated, shaped by the transfer curve, distorted,
scaled by the Volume value and smoothed toward the old PREV; it joins the running sum by the three combine laws.
`modulate` gives the modulation values (`OscillatorStepAdvancesItsCursors`). -/
def Obligations.CombineLawsJoinTheSum : Prop :=
  ∀ (F : Config.Fns) (c : OscCfg) (nt nb sum : F32) (o : OscState) (g : Prng),
    let m := (modulate F c nt ⟨o.lfoPh, g⟩).1
    let cube := fun z : F32 => Fp.mul (Fp.mul z z) z
    let alpha := Fp.add Fp.c0_4 (Fp.mul Fp.c0_6 (Fp.clamp m.morph Fp.pos0 Fp.one))
    let bigC := Fp.mul ((fun z => Fp.mul z alpha)^[9] alpha) Fp.thirty
    let flat := Fp.mul (cube m.squish) Fp.eight
    let decat := Fp.ceil (Fp.add Fp.one (Fp.div Fp.one (Fp.add (cube m.dec) Fp.c0_001)))
    let q := if Fp.gt decat Fp.c1000 then o.phase
      else Fp.add (Fp.div (Fp.floor (Fp.mul o.phase decat)) decat) (Fp.div Fp.c0_5 decat)
    let curve := fun x : F32 =>
      if Fp.lt x Fp.c0_5 then Fp.sub Fp.c0_5 (Fp.mul Fp.c0_5 (F.pow (Fp.sub Fp.one (Fp.mul Fp.two x)) flat))
      else Fp.add Fp.c0_5 (Fp.mul Fp.c0_5 (F.pow (Fp.sub (Fp.mul Fp.two x) Fp.one) flat))
    let half := fun x : F32 => Fp.sub Fp.one (curve (Fp.mul (F.pow x bigC) Fp.two))
    let x0 := if Fp.lt q Fp.c0_5 then half q else Fp.neg (half (Fp.sub Fp.one q))
    let y0 := Fp.mul x0 (Fp.add Fp.one m.dist)
    let y := Fp.mul (Fp.sub (Fp.mul Fp.c1_5 y0) (Fp.mul Fp.c0_5 (cube y0))) m.vol
    let out := Fp.add y (Fp.mul (Fp.sub o.prev y) Fp.c0_4)
    let r := oscStep F c nt nb sum o g
    r.osc.prev = out ∧
    (c.combine = .mix → r.sum = Fp.add sum out) ∧
    (c.combine = .mul → r.sum = Fp.mul sum (Fp.lerp Fp.one out (c.lfo[(4 : DestIx)]).base)) ∧
    (c.combine = .ring → r.sum = Fp.mul sum (Fp.sub Fp.one (Fp.mul Fp.c0_5 (Fp.add out m.vol))))

/-- R401 to R405: the coefficients, one pass and the two passes of the filter. At a cutoff that is NaN, below 0 or `+0.0`
the tuning gain is `+0.0`, and a pass from finite stages with an input that is not NaN leaves each stage numerically
unchanged; that rests on `FN_EXP(-0.0) = 1.0` as R405 states it (log entry 3). -/
def Obligations.FilterHoldsAtCutoffZero : Prop :=
  (∀ (F : Config.Fns) (cutoff : F32),
    let fc := Fp.mul (Fp.clamp cutoff Fp.pos0 Fp.one) Fp.c0_5
    let fc2 := Fp.mul fc fc
    let fc3 := Fp.mul fc2 fc
    let fcr := Fp.add (Fp.sub (Fp.add (Fp.mul 0x3FEFBE77#32 fc3) (Fp.mul 0x3EFDB22D#32 fc2)) (Fp.mul 0x3F2624DD#32 fc))
      0x3F7FB15B#32
    (filterCoef F cutoff).acr = Fp.add (Fp.add (Fp.mul 0xC07BEDFA#32 fc2) (Fp.mul 0x3FEBA29C#32 fc)) 0x3F7F2E49#32 ∧
    (filterCoef F cutoff).tune =
      Fp.sub Fp.one (F.exp (Fp.neg (Fp.mul (Fp.mul 0x40C90FDB#32 (Fp.mul fc Fp.c0_5)) fcr)))) ∧
  (∀ (F : Config.Fns) (k : FilterCoef) (res xin : F32) (f : FilterState),
    let p := filterPass F k res xin f
    let pole := fun s x : F32 => Fp.add s (Fp.mul k.tune (Fp.sub (F.tanh x) (F.tanh s)))
    p.fs0 = pole f.fs0 (Fp.sub xin (Fp.mul (Fp.mul (Fp.mul Fp.four res) f.fout) k.acr)) ∧ p.fs1 = pole f.fs1 p.fs0 ∧
    p.fs2 = pole f.fs2 p.fs1 ∧ p.fs3 = pole f.fs3 p.fs2 ∧
    p.fout = Fp.mul (Fp.add p.fs3 f.fdly) Fp.c0_5 ∧ p.fdly = p.fs3) ∧
  (∀ (F : Config.Fns) (c : Cfg) (xin : F32) (f : FilterState),
    let k := filterCoef F c.filterCutoff
    filterStep F c xin f = filterPass F k c.filterResonance xin (filterPass F k c.filterResonance xin f)) ∧
  (∀ cutoff : F32, Fp.isNaN cutoff = true ∨ Fp.lt cutoff Fp.pos0 = true ∨ cutoff = 0#32 →
    (filterCoef fns cutoff).tune = 0#32) ∧
  (∀ (k : FilterCoef) (res xin : F32) (f : FilterState), k.tune = 0#32 →
    Fp.isFinite f.fs0 = true → Fp.isFinite f.fs1 = true → Fp.isFinite f.fs2 = true → Fp.isFinite f.fs3 = true →
    Fp.isNaN (Fp.sub xin (Fp.mul (Fp.mul (Fp.mul Fp.four res) f.fout) k.acr)) = false →
    let p := filterPass fns k res xin f
    Fp.eq p.fs0 f.fs0 = true ∧ Fp.eq p.fs1 f.fs1 = true ∧ Fp.eq p.fs2 f.fs2 = true ∧ Fp.eq p.fs3 f.fs3 = true)

/-- R406: a NaN input makes every stage of the filter NaN, and a filter whose stages are NaN stays so after every later
sample. -/
def Obligations.FilterNaNIsSticky : Prop :=
  (∀ (c : Cfg) (xin : F32) (f : FilterState), Fp.isNaN xin = true →
    let p := filterStep fns c xin f
    Fp.isNaN p.fs0 = true ∧ Fp.isNaN p.fs1 = true ∧ Fp.isNaN p.fs2 = true ∧ Fp.isNaN p.fs3 = true ∧
      Fp.isNaN p.fout = true) ∧
  (∀ (c : Cfg) (xin : F32) (f : FilterState), Fp.isNaN f.fs0 = true → Fp.isNaN f.fs1 = true →
    Fp.isNaN f.fs2 = true → Fp.isNaN f.fs3 = true →
    let p := filterStep fns c xin f
    Fp.isNaN p.fs0 = true ∧ Fp.isNaN p.fs1 = true ∧ Fp.isNaN p.fs2 = true ∧ Fp.isNaN p.fs3 = true)

/-! ## Numerics -/

/-- R253: every operation whose result is a NaN delivers the canonical quiet NaN 0x7FC00000. -/
def Obligations.NaNResultsAreCanonical : Prop :=
  ∀ x y : F32,
    (Fp.isNaN (Fp.add x y) = true → Fp.add x y = 0x7FC00000#32) ∧
    (Fp.isNaN (Fp.sub x y) = true → Fp.sub x y = 0x7FC00000#32) ∧
    (Fp.isNaN (Fp.mul x y) = true → Fp.mul x y = 0x7FC00000#32) ∧
    (Fp.isNaN (Fp.div x y) = true → Fp.div x y = 0x7FC00000#32) ∧
    (Fp.isNaN (Fp.floor x) = true → Fp.floor x = 0x7FC00000#32) ∧
    (Fp.isNaN (Fp.ceil x) = true → Fp.ceil x = 0x7FC00000#32) ∧
    (Fp.isNaN (Fp.neg x) = true → Fp.neg x = 0x7FC00000#32) ∧
    (Fp.isNaN (fns.pow x y) = true → fns.pow x y = 0x7FC00000#32) ∧
    (Fp.isNaN (fns.exp x) = true → fns.exp x = 0x7FC00000#32) ∧
    (Fp.isNaN (fns.tanh x) = true → fns.tanh x = 0x7FC00000#32) ∧
    (Fp.isNaN (fns.sin x) = true → fns.sin x = 0x7FC00000#32)

/-- R256: `fmax` and `clamp` on NaN, and a clamp between ordered bounds lies between them. -/
def Obligations.ClampStaysBetweenItsBounds : Prop :=
  ∀ x lo hi : F32,
    (Fp.isNaN x = true → Fp.clamp x lo hi = lo ∧ Fp.fmax x lo = lo ∧ Fp.fmin x lo = lo) ∧
    (Fp.le lo hi = true → Fp.le lo (Fp.clamp x lo hi) = true ∧ Fp.le (Fp.clamp x lo hi) hi = true) ∧
    (Fp.ge x lo = true → Fp.le x hi = true → Fp.clamp x lo hi = x)

/-- R259: for every finite non-negative `p`, `wrap(p)` is exactly the fractional part of `p` (`val` counts units of
2^-149), and `wrap` is in [0, 1) for every operand, NaN and infinities included. -/
def Obligations.WrapIsTheFractionalPart : Prop :=
  (∀ p : F32, Fp.isFinite p = true → Fp.sign p = false → Fp.val (Fp.wrap p) = Fp.val p % 2 ^ 149) ∧
  (∀ p : F32, inUnit (Fp.wrap p) = true)

/-- R262, R263: the constraints on the open functions, whatever function is supplied. -/
def Obligations.OpenFunctionsMeetTheirConstraints : Prop :=
  (∀ x y : F32, Fp.isZero y = true → fns.pow x y = Fp.one) ∧
  (∀ y : F32, fns.pow Fp.one y = Fp.one) ∧
  (∀ x y : F32, Fp.isZero x = true → Fp.gt y Fp.pos0 = true → fns.pow x y = 0#32) ∧
  (∀ x y : F32, Fp.isZero x = true → Fp.lt y Fp.pos0 = true → fns.pow x y = 0x7F800000#32) ∧
  (∀ x y : F32, Fp.isFinite x = true → Fp.lt x Fp.pos0 = true → Fp.isFinite y = true → Fp.val y % 2 ^ 149 ≠ 0 →
    Fp.isNaN (fns.pow x y) = true) ∧
  (∀ x y : F32, (Fp.isNaN x = true ∧ Fp.isZero y = false) ∨ (Fp.isNaN y = true ∧ x ≠ Fp.one) →
    Fp.isNaN (fns.pow x y) = true) ∧
  fns.exp 0xFF800000#32 = 0#32 ∧ fns.exp 0x7F800000#32 = 0x7F800000#32 ∧
  fns.tanh 0x7F800000#32 = Fp.one ∧ fns.tanh 0xFF800000#32 = Fp.negOne ∧
  (∀ x : F32, fns.tanh (Fp.neg x) = Fp.neg (fns.tanh x)) ∧
  (∀ x : F32, Fp.isNaN x = false → inBand (fns.tanh x) = true) ∧
  (∀ x : F32, Fp.isFinite x = true → inBand (fns.sin x) = true) ∧
  (∀ x : F32, Fp.isInf x = true → Fp.isNaN (fns.sin x) = true) ∧
  (∀ x : F32, Fp.isNaN x = true →
    Fp.isNaN (fns.exp x) = true ∧ Fp.isNaN (fns.tanh x) = true ∧ Fp.isNaN (fns.sin x) = true)

/-! ## POP_OUTPUT and RENDER_SCOPE -/

/-- R504, R162: with room for two words POP_OUTPUT responds with the frame at the read cursor, left then right, each
clamped to [0, 1], and advances the read cursor modulo 44100; with room for one the right word waits and the cursor
is kept. `BlockWaitsAndRests` says that the cursor advances when the last word is in the FIFO. That a step delivers as
many words as fit is read from R14 (log entry 7). -/
def Obligations.PopOutputRespondsAndAdvances : Prop :=
  ∀ s : State,
    let f := Memory.read s.buf s.readCursor.val
    let l := Fp.clamp f.l Fp.pos0 Fp.one
    let r := Fp.clamp f.r Fp.pos0 Fp.one
    (RoomFor 2 s → ∃ c : Cursor, c.val = (s.readCursor.val + 1) % 44100 ∧
      exec .popOutput s = .next (((s.setRspFifo (s.rspFifo ++ [l, r])).setInFlight none).setReadCursor c)) ∧
    (RoomFor 1 s → ¬ RoomFor 2 s →
      exec .popOutput s = .next ((s.setRspFifo (s.rspFifo ++ [l])).setInFlight (some ⟨[r], .advanceRead⟩))) ∧
    (¬ RoomFor 1 s → exec .popOutput s = .next (s.setInFlight (some ⟨[l, r], .advanceRead⟩)))

/-- R504, source property T9: every word POP_OUTPUT returns is a binary32 value in [0, 1], whatever the buffer holds. -/
def Obligations.PopOutputStaysInItsRange : Prop :=
  ∀ s : State, RoomFor 2 s → ∃ t l r, exec .popOutput s = .next t ∧ t.rspFifo = s.rspFifo ++ [l, r] ∧
    Fp.le Fp.pos0 l = true ∧ Fp.le l Fp.one = true ∧ Fp.le Fp.pos0 r = true ∧ Fp.le r Fp.one = true

/-- R505: RENDER_SCOPE of a legal oscillator responds with exactly COUNT words in order (those without room
wait, and nothing follows them), word `i` being steps 3 to 5 of the oscillator on the BASE registers at phase `wrap(i / n)`; it writes no other state. -/
def Obligations.RenderScopePreviewsWithoutState : Prop :=
  ∀ (s : State) (o : BitVec 8) (oi : OscIx) (n : U32), o.toNat = oi.val →
    let c := s.cfg.osc[oi]
    let sh := shapingOf (c.lfo[(1 : DestIx)]).base (c.lfo[(2 : DestIx)]).base (c.lfo[(5 : DestIx)]).base
    ∃ (t : State) (ws : List U32), exec (.renderScope o n) s = .next t ∧
      t.rspFifo ++ waitingWords t = s.rspFifo ++ ws ∧ ws.length = n.toNat ∧
      (∀ i < n.toNat, ws[i]? = some (Fp.mul
        (distort (shapeCurve fns sh (quantize (Fp.wrap (Fp.div (Fp.ofInt i) (Fp.ofInt n.toNat))) sh.decat))
          (c.lfo[(3 : DestIx)]).base)
        (Fp.fmax (c.lfo[(4 : DestIx)]).base Fp.pos0))) ∧
      (RoomFor n.toNat s → t.rspFifo = s.rspFifo ++ ws ∧ t.inFlight = none) ∧
      (∀ p, t.inFlight = some p → p.after = .nothing) ∧
      SameRegs s t ∧ SameFrames s t ∧ SamePorts s t

/-! ## Reset and invariants -/

/-- R600, R53 to R60, R90, R91: what reset leaves, and that the reset input gives it from any state. -/
def Obligations.ResetLeavesTheListedValues : Prop :=
  (∀ r : Reg, readReg r State.reset =
    if r = .global .prngA then 0x6A09E667#32 else if r = .global .prngB then 0xBB67AE85#32
    else if r = .stat .id then 0x50534F43#32 else if r = .stat .version then 1#32
    else if ∃ v, r = .voice v .key then 0xFF#32 else 0#32) ∧
  (∀ i : Nat, Memory.read State.reset.buf i = ⟨0#32, 0#32⟩) ∧
  State.reset.cmdFifo = [] ∧ State.reset.rspFifo = [] ∧ State.reset.inFlight = none ∧
  (∀ (s : State) (rest : List PortEvent), s.port.agenda = .reset :: rest →
    step s = .next (State.reset.setPort ⟨rest, s.port.received⟩))

/-- The reset state meets the invariant of Safety.lean (R61, R90, R160). -/
def Obligations.ResetMeetsTheInvariant : Prop := State.reset.Inv

/-- R61, R374, R90, R160: every step keeps the invariant: a died voice is not alive, a voice that is not alive has
REL_TIME at most TIME, KEY is legal, every oscillator and LFO cursor is in [0, 1), the buffer is canonical, both
FIFOs are within their depths, and a waiting command has a word to give. -/
def Obligations.StepKeepsTheInvariant : Prop :=
  ∀ s : State, s.Inv → ∃ t, step s = .next t ∧ t.Inv

/-- R61: at most one voice that is not died holds a given key, as long as no NOTE_ON is executed in Portamento mode
while a voice other than voice 0 holds its key (R614). -/
def Obligations.OneVoicePerKeyIsKept : Prop :=
  ∀ (s : State) (i : Instr), OneVoicePerKey s →
    ¬ (s.cfg.mode = .portamento ∧ ∃ ch key vel v, i = .noteOn ch key vel ∧ v ≠ 0 ∧ holdsKey (s.voice v) key = true) →
    ∃ t, exec i s = .next t ∧ OneVoicePerKey t
end

