-- ==== Sys2Proof/Laws/Float.lean ====
section
/-! SUPPORT. What the binary32 primitives do, said once: patterns and their parts, rounding is exact on binary32
values and monotone, comparisons against a packed result. Later proofs cite these and do not unfold the
rounding. -/

namespace Sys2Proof.Machine.Fp

/-! ## Patterns -/

theorem mag_lt (x : F32) : mag x < 2 ^ 31 := Nat.mod_lt _ (by decide)

theorem toNat_eq (x : F32) : x.toNat = (if sign x then 2 ^ 31 else 0) + mag x := by
  have h := x.isLt
  unfold sign mag
  split <;> simp_all <;> omega

@[simp] theorem mag_pack (s : Bool) {m : Nat} (h : m < 2 ^ 31) : mag (pack s m) = m := by
  cases s <;> simp [mag, pack, BitVec.toNat_ofNat] <;> omega

@[simp] theorem sign_pack (s : Bool) {m : Nat} (h : m < 2 ^ 31) : sign (pack s m) = s := by
  cases s <;> simp [sign, pack, BitVec.toNat_ofNat] <;> omega

/-- A pattern is its sign and its magnitude. -/
theorem pack_eta (x : F32) : pack (sign x) (mag x) = x := by
  apply BitVec.eq_of_toNat_eq
  have hx := toNat_eq x
  have hm := mag_lt x
  have h := x.isLt
  simp only [pack, BitVec.toNat_ofNat]
  split <;> simp_all

theorem ext_parts {x y : F32} (hs : sign x = sign y) (hm : mag x = mag y) : x = y := by
  rw [← pack_eta x, ← pack_eta y, hs, hm]

/-- A non-NaN pattern is finite or infinite. -/
theorem isNaN_eq_false {x : F32} : isNaN x = false ↔ mag x ≤ infMag := by simp [isNaN]

theorem isNaN_pack (s : Bool) {m : Nat} (h : m ≤ infMag) : isNaN (pack s m) = false := by
  have : m < 2 ^ 31 := Nat.lt_of_le_of_lt h (by decide)
  simp [isNaN, mag_pack s this, h]

/-! ## Rounding -/

theorem roundMag_le (n d : Nat) : roundMag n d ≤ infMag := Nat.min_le_right _ _

theorem roundMag_lt (n d : Nat) : roundMag n d < 2 ^ 31 := Nat.lt_of_le_of_lt (roundMag_le n d) (by decide)

/-- The nearest integer, said by its two inequalities and the tie rule. -/
theorem roundDiv_spec (n : Nat) {d : Nat} (hd : 0 < d) :
    2 * n ≤ (2 * roundDiv n d + 1) * d ∧ 2 * roundDiv n d * d ≤ 2 * n + d ∧
    (2 * n = (2 * roundDiv n d + 1) * d → roundDiv n d % 2 = 0) ∧
    (2 * roundDiv n d * d = 2 * n + d → roundDiv n d % 2 = 0) := by
  have hn : d * (n / d) + n % d = n := Nat.div_add_mod n d
  have hr : n % d < d := Nat.mod_lt _ hd
  generalize hq : n / d = q at *
  generalize hm : n % d = r at *
  unfold roundDiv
  simp only [hq, hm]
  have e : d * q = q * d := Nat.mul_comm _ _
  split
  · rename_i h
    have e1 : (2 * (q + 1) + 1) * d = 2 * (q * d) + 3 * d := by ring
    have e2 : 2 * (q + 1) * d = 2 * (q * d) + 2 * d := by ring
    rw [e1, e2]
    refine ⟨by omega, by omega, fun h' => by omega, fun h' => ?_⟩
    rcases h with h | ⟨h, h2⟩ <;> omega
  · rename_i h
    have e1 : (2 * q + 1) * d = 2 * (q * d) + d := by ring
    have e2 : 2 * q * d = 2 * (q * d) := by ring
    rw [e1, e2]
    push Not at h
    refine ⟨by omega, by omega, fun h' => ?_, fun h' => by omega⟩
    have := h.2 (by omega)
    omega

/-- Rounding to the nearest integer is monotone in the quotient. -/
theorem roundDiv_mono {a b c d : Nat} (hb : 0 < b) (hd : 0 < d) (h : a * d ≤ c * b) :
    roundDiv a b ≤ roundDiv c d := by
  by_contra hlt
  obtain ⟨-, a2, -, a4⟩ := roundDiv_spec a hb
  obtain ⟨c1, -, c3, -⟩ := roundDiv_spec c hd
  generalize roundDiv a b = r' at *
  generalize roundDiv c d = r at *
  have hr : r + 1 ≤ r' := by omega
  have hbd : 0 < b * d := Nat.mul_pos hb hd
  have k1 : 2 * r' * (b * d) ≤ 2 * (a * d) + b * d := by nlinarith
  have k2 : 2 * (c * b) ≤ (2 * r + 1) * (b * d) := by nlinarith
  have k3 : 2 * r' * (b * d) ≤ (2 * r + 2) * (b * d) := by nlinarith
  have k4 : 2 * r' ≤ 2 * r + 2 := Nat.le_of_mul_le_mul_right k3 hbd
  have hr' : r' = r + 1 := by omega
  subst hr'
  have t1 : 2 * (r + 1) * b * d = (2 * a + b) * d := by nlinarith
  have t2 : 2 * c * b = (2 * r + 1) * d * b := by nlinarith
  have := a4 (Nat.eq_of_mul_eq_mul_right hd t1)
  have := c3 (Nat.eq_of_mul_eq_mul_right hb t2)
  omega

theorem roundDiv_exact (n : Nat) : roundDiv n 1 = n := by simp [roundDiv, Nat.mod_one]

/-- A quotient below a whole number rounds to at most it. -/
theorem roundDiv_le {n d m : Nat} (hd : 0 < d) (h : n ≤ m * d) : roundDiv n d ≤ m := by
  simpa [roundDiv_exact] using roundDiv_mono (a := n) (b := d) (c := m) (d := 1) hd Nat.one_pos (by simpa using h)

/-- A quotient of at least a whole number rounds to at least it. -/
theorem le_roundDiv {n d m : Nat} (hd : 0 < d) (h : m * d ≤ n) : m ≤ roundDiv n d := by
  simpa [roundDiv_exact] using roundDiv_mono (a := m) (b := 1) (c := n) (d := d) Nat.one_pos hd (by simpa using h)

/-- Outside the subnormal range the quotient has 24 bits above the excess. -/
theorem excess_pos {n d : Nat} (h : excess n d ≠ 0) :
    2 ^ 23 * 2 ^ excess n d ≤ n / d ∧ n / d < 2 ^ 24 * 2 ^ excess n d := by
  unfold excess at *
  split at h
  · exact absurd rfl h
  · rename_i hq
    have hne : n / d ≠ 0 := by omega
    have h24 : 24 ≤ Nat.log2 (n / d) := by
      rw [Nat.le_log2 hne]
      omega
    simp only [hq, if_false, ← pow_add]
    have e1 : 23 + (Nat.log2 (n / d) - 23) = Nat.log2 (n / d) := by omega
    have e2 : 24 + (Nat.log2 (n / d) - 23) = Nat.log2 (n / d) + 1 := by omega
    rw [e1, e2]
    exact ⟨Nat.log2_self_le hne, Nat.lt_log2_self⟩

theorem excess_zero {n d : Nat} (h : excess n d = 0) : n / d < 2 ^ 24 := by
  unfold excess at h
  split at h
  · assumption
  · rename_i hq
    have hne : n / d ≠ 0 := by omega
    have h24 : 24 ≤ Nat.log2 (n / d) := by
      rw [Nat.le_log2 hne]
      omega
    omega

theorem excess_mono {a b c d : Nat} (h : a / b ≤ c / d) : excess a b ≤ excess c d := by
  by_contra hlt
  have h1 := excess_pos (n := a) (d := b) (by omega)
  have h2 : c / d < 2 ^ 24 * 2 ^ excess c d := by
    by_cases h0 : excess c d = 0
    · simpa [h0] using excess_zero h0
    · exact (excess_pos h0).2
  have h3 : 2 ^ 24 * 2 ^ excess c d ≤ 2 ^ 23 * 2 ^ excess a b := by
    rw [← pow_add, ← pow_add]
    exact Nat.pow_le_pow_right (by decide) (by omega)
  omega

/-- Rounding is monotone in the exact quotient. -/
theorem roundMag_mono {a b c d : Nat} (hb : 0 < b) (hd : 0 < d) (h : a * d ≤ c * b) :
    roundMag a b ≤ roundMag c d := by
  have hq : a / b ≤ c / d := by
    rw [Nat.le_div_iff_mul_le hd]
    have h1 : a / b * b ≤ a := Nat.div_mul_le_self a b
    have h2 : a / b * d * b ≤ c * b := by nlinarith
    exact Nat.le_of_mul_le_mul_right h2 hb
  have hk := excess_mono hq
  refine Nat.le_min.mpr ⟨Nat.le_trans (Nat.min_le_left _ _) ?_, roundMag_le a b⟩
  rcases Nat.eq_or_lt_of_le hk with he | hlt
  · rw [he]
    refine Nat.add_le_add_left (roundDiv_mono (Nat.mul_pos hb (by positivity)) (Nat.mul_pos hd (by positivity)) ?_) _
    nlinarith [Nat.zero_le (2 ^ excess c d), Nat.mul_le_mul_right (2 ^ excess c d) h]
  · have ha : a / b < 2 ^ 24 * 2 ^ excess a b := by
      by_cases h0 : excess a b = 0
      · simpa [h0] using excess_zero h0
      · exact (excess_pos h0).2
    have hc := (excess_pos (n := c) (d := d) (by omega)).1
    have u1 : roundDiv a (b * 2 ^ excess a b) ≤ 2 ^ 24 := by
      refine roundDiv_le (Nat.mul_pos hb (by positivity)) ?_
      have := (Nat.div_lt_iff_lt_mul hb).mp ha
      nlinarith
    have u2 : 2 ^ 23 ≤ roundDiv c (d * 2 ^ excess c d) := by
      refine le_roundDiv (Nat.mul_pos hd (by positivity)) ?_
      have := (Nat.le_div_iff_mul_le hd).mp hc
      nlinarith
    have : (excess a b + 1) * 2 ^ 23 ≤ excess c d * 2 ^ 23 := Nat.mul_le_mul_right _ hlt
    omega

/-- The units of a finite magnitude pattern. -/
theorem units_eq (x : F32) : units x = if mag x < 2 ^ 23 then mag x
    else (2 ^ 23 + mag x % 2 ^ 23) * 2 ^ (mag x / 2 ^ 23 - 1) := rfl

/-- Rounding a binary32 value gives it back. -/
theorem roundMag_units {x : F32} (h : mag x ≤ infMag) : roundMag (units x) 1 = mag x := by
  have hdiv : mag x / 2 ^ 23 * 2 ^ 23 + mag x % 2 ^ 23 = mag x := Nat.div_add_mod' _ _
  have hmod : mag x % 2 ^ 23 < 2 ^ 23 := Nat.mod_lt _ (by decide)
  rw [units_eq]
  generalize hf : mag x % 2 ^ 23 = f at *
  generalize he : mag x / 2 ^ 23 = e at *
  split
  · rename_i hlt
    have : excess (mag x) 1 = 0 := by simp [excess]; omega
    simp [roundMag, this, roundDiv_exact, h]
  · rename_i hge
    have he1 : 1 ≤ e := by omega
    have hk : excess ((2 ^ 23 + f) * 2 ^ (e - 1)) 1 = e - 1 := by
      have hlo : 2 ^ (23 + (e - 1)) ≤ (2 ^ 23 + f) * 2 ^ (e - 1) := by
        rw [pow_add]; exact Nat.mul_le_mul_right _ (by omega)
      have hhi : (2 ^ 23 + f) * 2 ^ (e - 1) < 2 ^ (23 + (e - 1) + 1) := by
        rw [show 23 + (e - 1) + 1 = 24 + (e - 1) by omega, pow_add]
        exact Nat.mul_lt_mul_of_pos_right (by omega) (by positivity)
      have hlog : Nat.log2 ((2 ^ 23 + f) * 2 ^ (e - 1)) = 23 + (e - 1) := by
        have hne : (2 ^ 23 + f) * 2 ^ (e - 1) ≠ 0 := by positivity
        rw [Nat.log2_eq_iff hne]
        exact ⟨hlo, hhi⟩
      unfold excess
      rw [Nat.div_one, hlog]
      split
      · rename_i hlt
        have : 2 ^ (23 + (e - 1)) < 2 ^ 24 := Nat.lt_of_le_of_lt hlo hlt
        have := (Nat.pow_lt_pow_iff_right (a := 2) (by decide)).mp this
        omega
      · omega
    have hpos : 0 < 2 ^ (e - 1) := by positivity
    have hround : roundDiv ((2 ^ 23 + f) * 2 ^ (e - 1)) (1 * 2 ^ (e - 1)) = 2 ^ 23 + f := by
      rw [Nat.one_mul]
      exact Nat.le_antisymm (roundDiv_le hpos (Nat.le_refl _)) (le_roundDiv hpos (Nat.le_refl _))
    simp only [roundMag, hk, hround]
    omega

/-- The exact quotient at most a binary32 magnitude rounds to at most it. -/
theorem roundMag_le_mag {n d : Nat} (hd : 0 < d) {y : F32} (hy : mag y ≤ infMag) (h : n ≤ units y * d) :
    roundMag n d ≤ mag y := by
  rw [← roundMag_units hy]
  exact roundMag_mono hd Nat.one_pos (by simpa using h)

/-- The exact quotient at least a binary32 magnitude rounds to at least it. -/
theorem mag_le_roundMag {n d : Nat} (hd : 0 < d) {y : F32} (hy : mag y ≤ infMag) (h : units y * d ≤ n) :
    mag y ≤ roundMag n d := by
  rw [← roundMag_units hy]
  exact roundMag_mono Nat.one_pos hd (by simpa using h)

@[simp] theorem roundMag_zero (d : Nat) : roundMag 0 d = 0 := by
  simp [roundMag, excess, roundDiv]

/-- The units of finite patterns are in the order of the magnitudes. -/
theorem units_le_units {x y : F32} (hx : mag x ≤ infMag) (hy : mag y ≤ infMag) : units x ≤ units y ↔ mag x ≤ mag y := by
  constructor
  · intro h
    rw [← roundMag_units hx, ← roundMag_units hy]
    exact roundMag_mono Nat.one_pos Nat.one_pos (by simpa using h)
  · intro h
    by_contra hlt
    have := roundMag_mono (a := units y) (b := 1) (c := units x) (d := 1) Nat.one_pos Nat.one_pos (by omega)
    rw [roundMag_units hx, roundMag_units hy] at this
    have he : mag x = mag y := by omega
    simp [units_eq, he] at hlt

theorem units_eq_zero {x : F32} : units x = 0 ↔ mag x = 0 := by
  rw [units_eq]
  split
  · rfl
  · constructor
    · intro h
      have : 0 < (2 ^ 23 + mag x % 2 ^ 23) * 2 ^ (mag x / 2 ^ 23 - 1) := by positivity
      omega
    · omega

end Sys2Proof.Machine.Fp
end

