-- ==== Sys2Proof/Laws/Memory.lean ====
section
/-! SUPPORT. The output ring buffer as a map: a read after a write, and the canonical form that every operation
keeps. -/

namespace Sys2Proof.Machine.Memory

/-- An index below every listed one is not listed. -/
theorem read_eq_blank {m : Memory} {i : Nat} (h : ∀ p ∈ m, i < p.1) : read m i = Frame.blank := by
  induction m with
  | nil => rfl
  | cons p m ih =>
    have hp : p.1 ≠ i := Nat.ne_of_gt (h p (by simp))
    simp [read, hp, ih fun q hq => h q (List.mem_cons_of_mem _ hq)]

/-- A frame just written reads back. -/
theorem read_write_same (m : Memory) (hm : m.Pairwise fun p q => p.1 < q.1) (i : Nat) (f : Frame) :
    read (write m i f) i = f := by
  induction m with
  | nil => by_cases h : f = Frame.blank <;> simp [write, read, h]
  | cons p m ih =>
    obtain ⟨k, g⟩ := p
    have hk : ∀ q ∈ m, k < q.1 := fun q hq => (List.pairwise_cons.mp hm).1 q hq
    rcases Nat.lt_trichotomy i k with h | rfl | h
    · by_cases hf : f = Frame.blank
      · simpa [write, h, hf] using
          read_eq_blank (m := (k, g) :: m) (by simpa [h] using fun a b hq => Nat.lt_trans h (hk (a, b) hq))
      · simp [write, read, h, hf]
    · by_cases hf : f = Frame.blank
      · simpa [write, hf] using read_eq_blank hk
      · simp [write, read, hf]
    · have h1 : ¬ i < k := by omega
      have h2 : i ≠ k := by omega
      simp [write, read, h1, h2, h2.symm, ih (List.pairwise_cons.mp hm).2]

/-- Every other frame reads as before. -/
theorem read_write_other (m : Memory) (hm : m.Pairwise fun p q => p.1 < q.1) {i j : Nat} (f : Frame) (hij : j ≠ i) :
    read (write m i f) j = read m j := by
  induction m with
  | nil => by_cases h : f = Frame.blank <;> simp [write, read, h, hij.symm]
  | cons p m ih =>
    obtain ⟨k, g⟩ := p
    have hk : ∀ q ∈ m, k < q.1 := fun q hq => (List.pairwise_cons.mp hm).1 q hq
    rcases Nat.lt_trichotomy i k with h | rfl | h
    · by_cases hf : f = Frame.blank <;> simp [write, read, h, hf, hij.symm]
    · by_cases hf : f = Frame.blank <;> simp [write, read, hf, hij.symm]
    · have h1 : ¬ i < k := by omega
      have h2 : i ≠ k := by omega
      simp [write, read, h1, h2, ih (List.pairwise_cons.mp hm).2]

/-- A written list holds the frame written, if it is not blank, and otherwise only what it held. -/
theorem mem_write {m : Memory} {i : Nat} {f : Frame} {p : Nat × Frame} (h : p ∈ write m i f) :
    p ∈ m ∨ (p = (i, f) ∧ f ≠ Frame.blank) := by
  induction m with
  | nil => by_cases hf : f = Frame.blank <;> simp_all [write]
  | cons q m ih =>
    obtain ⟨k, g⟩ := q
    simp only [write] at h
    split at h
    · split at h <;> simp_all
      exact h.elim (fun h => .inr h) fun h => .inl h
    · split at h
      · split at h <;> simp_all
        exact h.elim (fun h => .inr h) fun h => .inl (.inr h)
      · rcases List.mem_cons.mp h with rfl | h
        · exact .inl (by simp)
        · exact (ih h).imp (List.mem_cons_of_mem _) id

/-- The empty buffer of reset is canonical. -/
theorem wf_nil : wf ([] : Memory) := by simp [wf]

/-- A write keeps the canonical form. -/
theorem wf_write {m : Memory} {i : Nat} {f : Frame} (hm : wf m) (hi : i < 44100) : wf (write m i f) := by
  refine ⟨?_, ?_⟩
  · obtain ⟨hs, hb⟩ := hm
    clear hb
    induction m with
    | nil => by_cases hf : f = Frame.blank <;> simp [write, hf]
    | cons q m ih =>
      obtain ⟨k, g⟩ := q
      obtain ⟨hk, hm⟩ := List.pairwise_cons.mp hs
      simp only [write]
      split
      · split
        · exact hs
        · refine List.pairwise_cons.mpr ⟨?_, hs⟩
          rintro ⟨a, b⟩ hq
          rcases List.mem_cons.mp hq with h | h
          · obtain ⟨rfl, rfl⟩ := Prod.mk.inj h; assumption
          · exact Nat.lt_trans ‹i < k› (hk _ h)
      · split
        · split
          · exact hm
          · subst_vars
            exact List.pairwise_cons.mpr ⟨hk, hm⟩
        · refine List.pairwise_cons.mpr ⟨?_, ih hm⟩
          intro p hp
          rcases mem_write hp with h | ⟨rfl, -⟩
          · exact hk p h
          · show k < i
            omega
  · intro p hp
    rcases mem_write hp with h | ⟨rfl, hf⟩
    · exact hm.2 p h
    · exact ⟨hi, hf⟩

end Sys2Proof.Machine.Memory
end

