-- ==== Sys2Proof/Laws/State.lean ====
section
/-! SUPPORT. What each named update of State writes and what it leaves: one lemma per field per update, so that no
later proof unfolds a record update. -/

namespace Sys2Proof.Machine.State

@[simp] theorem setCfg_cfg (s : State) (x : Cfg) : (s.setCfg x).cfg = x := rfl
@[simp] theorem setCfg_prng (s : State) (x : Cfg) : (s.setCfg x).prng = s.prng := rfl
@[simp] theorem setCfg_status (s : State) (x : Cfg) : (s.setCfg x).status = s.status := rfl
@[simp] theorem setCfg_arpIndex (s : State) (x : Cfg) : (s.setCfg x).arpIndex = s.arpIndex := rfl
@[simp] theorem setCfg_arpVoice (s : State) (x : Cfg) : (s.setCfg x).arpVoice = s.arpVoice := rfl
@[simp] theorem setCfg_glide (s : State) (x : Cfg) : (s.setCfg x).glide = s.glide := rfl
@[simp] theorem setCfg_writeCursor (s : State) (x : Cfg) : (s.setCfg x).writeCursor = s.writeCursor := rfl
@[simp] theorem setCfg_readCursor (s : State) (x : Cfg) : (s.setCfg x).readCursor = s.readCursor := rfl
@[simp] theorem setCfg_voices (s : State) (x : Cfg) : (s.setCfg x).voices = s.voices := rfl
@[simp] theorem setCfg_buf (s : State) (x : Cfg) : (s.setCfg x).buf = s.buf := rfl
@[simp] theorem setCfg_cmdFifo (s : State) (x : Cfg) : (s.setCfg x).cmdFifo = s.cmdFifo := rfl
@[simp] theorem setCfg_rspFifo (s : State) (x : Cfg) : (s.setCfg x).rspFifo = s.rspFifo := rfl
@[simp] theorem setCfg_inFlight (s : State) (x : Cfg) : (s.setCfg x).inFlight = s.inFlight := rfl
@[simp] theorem setCfg_port (s : State) (x : Cfg) : (s.setCfg x).port = s.port := rfl
@[simp] theorem setCfg_voice (s : State) (x : Cfg) (u : Slot) : (s.setCfg x).voice u = s.voice u := rfl

@[simp] theorem setPrng_cfg (s : State) (x : Prng) : (s.setPrng x).cfg = s.cfg := rfl
@[simp] theorem setPrng_prng (s : State) (x : Prng) : (s.setPrng x).prng = x := rfl
@[simp] theorem setPrng_status (s : State) (x : Prng) : (s.setPrng x).status = s.status := rfl
@[simp] theorem setPrng_arpIndex (s : State) (x : Prng) : (s.setPrng x).arpIndex = s.arpIndex := rfl
@[simp] theorem setPrng_arpVoice (s : State) (x : Prng) : (s.setPrng x).arpVoice = s.arpVoice := rfl
@[simp] theorem setPrng_glide (s : State) (x : Prng) : (s.setPrng x).glide = s.glide := rfl
@[simp] theorem setPrng_writeCursor (s : State) (x : Prng) : (s.setPrng x).writeCursor = s.writeCursor := rfl
@[simp] theorem setPrng_readCursor (s : State) (x : Prng) : (s.setPrng x).readCursor = s.readCursor := rfl
@[simp] theorem setPrng_voices (s : State) (x : Prng) : (s.setPrng x).voices = s.voices := rfl
@[simp] theorem setPrng_buf (s : State) (x : Prng) : (s.setPrng x).buf = s.buf := rfl
@[simp] theorem setPrng_cmdFifo (s : State) (x : Prng) : (s.setPrng x).cmdFifo = s.cmdFifo := rfl
@[simp] theorem setPrng_rspFifo (s : State) (x : Prng) : (s.setPrng x).rspFifo = s.rspFifo := rfl
@[simp] theorem setPrng_inFlight (s : State) (x : Prng) : (s.setPrng x).inFlight = s.inFlight := rfl
@[simp] theorem setPrng_port (s : State) (x : Prng) : (s.setPrng x).port = s.port := rfl
@[simp] theorem setPrng_voice (s : State) (x : Prng) (u : Slot) : (s.setPrng x).voice u = s.voice u := rfl

@[simp] theorem setStatus_cfg (s : State) (x : BitVec 4) : (s.setStatus x).cfg = s.cfg := rfl
@[simp] theorem setStatus_prng (s : State) (x : BitVec 4) : (s.setStatus x).prng = s.prng := rfl
@[simp] theorem setStatus_status (s : State) (x : BitVec 4) : (s.setStatus x).status = x := rfl
@[simp] theorem setStatus_arpIndex (s : State) (x : BitVec 4) : (s.setStatus x).arpIndex = s.arpIndex := rfl
@[simp] theorem setStatus_arpVoice (s : State) (x : BitVec 4) : (s.setStatus x).arpVoice = s.arpVoice := rfl
@[simp] theorem setStatus_glide (s : State) (x : BitVec 4) : (s.setStatus x).glide = s.glide := rfl
@[simp] theorem setStatus_writeCursor (s : State) (x : BitVec 4) : (s.setStatus x).writeCursor = s.writeCursor := rfl
@[simp] theorem setStatus_readCursor (s : State) (x : BitVec 4) : (s.setStatus x).readCursor = s.readCursor := rfl
@[simp] theorem setStatus_voices (s : State) (x : BitVec 4) : (s.setStatus x).voices = s.voices := rfl
@[simp] theorem setStatus_buf (s : State) (x : BitVec 4) : (s.setStatus x).buf = s.buf := rfl
@[simp] theorem setStatus_cmdFifo (s : State) (x : BitVec 4) : (s.setStatus x).cmdFifo = s.cmdFifo := rfl
@[simp] theorem setStatus_rspFifo (s : State) (x : BitVec 4) : (s.setStatus x).rspFifo = s.rspFifo := rfl
@[simp] theorem setStatus_inFlight (s : State) (x : BitVec 4) : (s.setStatus x).inFlight = s.inFlight := rfl
@[simp] theorem setStatus_port (s : State) (x : BitVec 4) : (s.setStatus x).port = s.port := rfl
@[simp] theorem setStatus_voice (s : State) (x : BitVec 4) (u : Slot) : (s.setStatus x).voice u = s.voice u := rfl

@[simp] theorem setArp_cfg (s : State) (i : Fin 12) (v : Slot) : (s.setArp i v).cfg = s.cfg := rfl
@[simp] theorem setArp_prng (s : State) (i : Fin 12) (v : Slot) : (s.setArp i v).prng = s.prng := rfl
@[simp] theorem setArp_status (s : State) (i : Fin 12) (v : Slot) : (s.setArp i v).status = s.status := rfl
@[simp] theorem setArp_arpIndex (s : State) (i : Fin 12) (v : Slot) : (s.setArp i v).arpIndex = i := rfl
@[simp] theorem setArp_arpVoice (s : State) (i : Fin 12) (v : Slot) : (s.setArp i v).arpVoice = v := rfl
@[simp] theorem setArp_glide (s : State) (i : Fin 12) (v : Slot) : (s.setArp i v).glide = s.glide := rfl
@[simp] theorem setArp_writeCursor (s : State) (i : Fin 12) (v : Slot) : (s.setArp i v).writeCursor = s.writeCursor := rfl
@[simp] theorem setArp_readCursor (s : State) (i : Fin 12) (v : Slot) : (s.setArp i v).readCursor = s.readCursor := rfl
@[simp] theorem setArp_voices (s : State) (i : Fin 12) (v : Slot) : (s.setArp i v).voices = s.voices := rfl
@[simp] theorem setArp_buf (s : State) (i : Fin 12) (v : Slot) : (s.setArp i v).buf = s.buf := rfl
@[simp] theorem setArp_cmdFifo (s : State) (i : Fin 12) (v : Slot) : (s.setArp i v).cmdFifo = s.cmdFifo := rfl
@[simp] theorem setArp_rspFifo (s : State) (i : Fin 12) (v : Slot) : (s.setArp i v).rspFifo = s.rspFifo := rfl
@[simp] theorem setArp_inFlight (s : State) (i : Fin 12) (v : Slot) : (s.setArp i v).inFlight = s.inFlight := rfl
@[simp] theorem setArp_port (s : State) (i : Fin 12) (v : Slot) : (s.setArp i v).port = s.port := rfl
@[simp] theorem setArp_voice (s : State) (i : Fin 12) (v : Slot) (u : Slot) : (s.setArp i v).voice u = s.voice u := rfl

@[simp] theorem setGlide_cfg (s : State) (x : Glide) : (s.setGlide x).cfg = s.cfg := rfl
@[simp] theorem setGlide_prng (s : State) (x : Glide) : (s.setGlide x).prng = s.prng := rfl
@[simp] theorem setGlide_status (s : State) (x : Glide) : (s.setGlide x).status = s.status := rfl
@[simp] theorem setGlide_arpIndex (s : State) (x : Glide) : (s.setGlide x).arpIndex = s.arpIndex := rfl
@[simp] theorem setGlide_arpVoice (s : State) (x : Glide) : (s.setGlide x).arpVoice = s.arpVoice := rfl
@[simp] theorem setGlide_glide (s : State) (x : Glide) : (s.setGlide x).glide = x := rfl
@[simp] theorem setGlide_writeCursor (s : State) (x : Glide) : (s.setGlide x).writeCursor = s.writeCursor := rfl
@[simp] theorem setGlide_readCursor (s : State) (x : Glide) : (s.setGlide x).readCursor = s.readCursor := rfl
@[simp] theorem setGlide_voices (s : State) (x : Glide) : (s.setGlide x).voices = s.voices := rfl
@[simp] theorem setGlide_buf (s : State) (x : Glide) : (s.setGlide x).buf = s.buf := rfl
@[simp] theorem setGlide_cmdFifo (s : State) (x : Glide) : (s.setGlide x).cmdFifo = s.cmdFifo := rfl
@[simp] theorem setGlide_rspFifo (s : State) (x : Glide) : (s.setGlide x).rspFifo = s.rspFifo := rfl
@[simp] theorem setGlide_inFlight (s : State) (x : Glide) : (s.setGlide x).inFlight = s.inFlight := rfl
@[simp] theorem setGlide_port (s : State) (x : Glide) : (s.setGlide x).port = s.port := rfl
@[simp] theorem setGlide_voice (s : State) (x : Glide) (u : Slot) : (s.setGlide x).voice u = s.voice u := rfl

@[simp] theorem setWriteCursor_cfg (s : State) (x : Cursor) : (s.setWriteCursor x).cfg = s.cfg := rfl
@[simp] theorem setWriteCursor_prng (s : State) (x : Cursor) : (s.setWriteCursor x).prng = s.prng := rfl
@[simp] theorem setWriteCursor_status (s : State) (x : Cursor) : (s.setWriteCursor x).status = s.status := rfl
@[simp] theorem setWriteCursor_arpIndex (s : State) (x : Cursor) : (s.setWriteCursor x).arpIndex = s.arpIndex := rfl
@[simp] theorem setWriteCursor_arpVoice (s : State) (x : Cursor) : (s.setWriteCursor x).arpVoice = s.arpVoice := rfl
@[simp] theorem setWriteCursor_glide (s : State) (x : Cursor) : (s.setWriteCursor x).glide = s.glide := rfl
@[simp] theorem setWriteCursor_writeCursor (s : State) (x : Cursor) : (s.setWriteCursor x).writeCursor = x := rfl
@[simp] theorem setWriteCursor_readCursor (s : State) (x : Cursor) : (s.setWriteCursor x).readCursor = s.readCursor := rfl
@[simp] theorem setWriteCursor_voices (s : State) (x : Cursor) : (s.setWriteCursor x).voices = s.voices := rfl
@[simp] theorem setWriteCursor_buf (s : State) (x : Cursor) : (s.setWriteCursor x).buf = s.buf := rfl
@[simp] theorem setWriteCursor_cmdFifo (s : State) (x : Cursor) : (s.setWriteCursor x).cmdFifo = s.cmdFifo := rfl
@[simp] theorem setWriteCursor_rspFifo (s : State) (x : Cursor) : (s.setWriteCursor x).rspFifo = s.rspFifo := rfl
@[simp] theorem setWriteCursor_inFlight (s : State) (x : Cursor) : (s.setWriteCursor x).inFlight = s.inFlight := rfl
@[simp] theorem setWriteCursor_port (s : State) (x : Cursor) : (s.setWriteCursor x).port = s.port := rfl
@[simp] theorem setWriteCursor_voice (s : State) (x : Cursor) (u : Slot) : (s.setWriteCursor x).voice u = s.voice u := rfl

@[simp] theorem setReadCursor_cfg (s : State) (x : Cursor) : (s.setReadCursor x).cfg = s.cfg := rfl
@[simp] theorem setReadCursor_prng (s : State) (x : Cursor) : (s.setReadCursor x).prng = s.prng := rfl
@[simp] theorem setReadCursor_status (s : State) (x : Cursor) : (s.setReadCursor x).status = s.status := rfl
@[simp] theorem setReadCursor_arpIndex (s : State) (x : Cursor) : (s.setReadCursor x).arpIndex = s.arpIndex := rfl
@[simp] theorem setReadCursor_arpVoice (s : State) (x : Cursor) : (s.setReadCursor x).arpVoice = s.arpVoice := rfl
@[simp] theorem setReadCursor_glide (s : State) (x : Cursor) : (s.setReadCursor x).glide = s.glide := rfl
@[simp] theorem setReadCursor_writeCursor (s : State) (x : Cursor) : (s.setReadCursor x).writeCursor = s.writeCursor := rfl
@[simp] theorem setReadCursor_readCursor (s : State) (x : Cursor) : (s.setReadCursor x).readCursor = x := rfl
@[simp] theorem setReadCursor_voices (s : State) (x : Cursor) : (s.setReadCursor x).voices = s.voices := rfl
@[simp] theorem setReadCursor_buf (s : State) (x : Cursor) : (s.setReadCursor x).buf = s.buf := rfl
@[simp] theorem setReadCursor_cmdFifo (s : State) (x : Cursor) : (s.setReadCursor x).cmdFifo = s.cmdFifo := rfl
@[simp] theorem setReadCursor_rspFifo (s : State) (x : Cursor) : (s.setReadCursor x).rspFifo = s.rspFifo := rfl
@[simp] theorem setReadCursor_inFlight (s : State) (x : Cursor) : (s.setReadCursor x).inFlight = s.inFlight := rfl
@[simp] theorem setReadCursor_port (s : State) (x : Cursor) : (s.setReadCursor x).port = s.port := rfl
@[simp] theorem setReadCursor_voice (s : State) (x : Cursor) (u : Slot) : (s.setReadCursor x).voice u = s.voice u := rfl

@[simp] theorem setVoice_cfg (s : State) (v : Slot) (x : Voice) : (s.setVoice v x).cfg = s.cfg := rfl
@[simp] theorem setVoice_prng (s : State) (v : Slot) (x : Voice) : (s.setVoice v x).prng = s.prng := rfl
@[simp] theorem setVoice_status (s : State) (v : Slot) (x : Voice) : (s.setVoice v x).status = s.status := rfl
@[simp] theorem setVoice_arpIndex (s : State) (v : Slot) (x : Voice) : (s.setVoice v x).arpIndex = s.arpIndex := rfl
@[simp] theorem setVoice_arpVoice (s : State) (v : Slot) (x : Voice) : (s.setVoice v x).arpVoice = s.arpVoice := rfl
@[simp] theorem setVoice_glide (s : State) (v : Slot) (x : Voice) : (s.setVoice v x).glide = s.glide := rfl
@[simp] theorem setVoice_writeCursor (s : State) (v : Slot) (x : Voice) : (s.setVoice v x).writeCursor = s.writeCursor := rfl
@[simp] theorem setVoice_readCursor (s : State) (v : Slot) (x : Voice) : (s.setVoice v x).readCursor = s.readCursor := rfl
@[simp] theorem setVoice_buf (s : State) (v : Slot) (x : Voice) : (s.setVoice v x).buf = s.buf := rfl
@[simp] theorem setVoice_cmdFifo (s : State) (v : Slot) (x : Voice) : (s.setVoice v x).cmdFifo = s.cmdFifo := rfl
@[simp] theorem setVoice_rspFifo (s : State) (v : Slot) (x : Voice) : (s.setVoice v x).rspFifo = s.rspFifo := rfl
@[simp] theorem setVoice_inFlight (s : State) (v : Slot) (x : Voice) : (s.setVoice v x).inFlight = s.inFlight := rfl
@[simp] theorem setVoice_port (s : State) (v : Slot) (x : Voice) : (s.setVoice v x).port = s.port := rfl

@[simp] theorem setBuf_cfg (s : State) (x : Memory) : (s.setBuf x).cfg = s.cfg := rfl
@[simp] theorem setBuf_prng (s : State) (x : Memory) : (s.setBuf x).prng = s.prng := rfl
@[simp] theorem setBuf_status (s : State) (x : Memory) : (s.setBuf x).status = s.status := rfl
@[simp] theorem setBuf_arpIndex (s : State) (x : Memory) : (s.setBuf x).arpIndex = s.arpIndex := rfl
@[simp] theorem setBuf_arpVoice (s : State) (x : Memory) : (s.setBuf x).arpVoice = s.arpVoice := rfl
@[simp] theorem setBuf_glide (s : State) (x : Memory) : (s.setBuf x).glide = s.glide := rfl
@[simp] theorem setBuf_writeCursor (s : State) (x : Memory) : (s.setBuf x).writeCursor = s.writeCursor := rfl
@[simp] theorem setBuf_readCursor (s : State) (x : Memory) : (s.setBuf x).readCursor = s.readCursor := rfl
@[simp] theorem setBuf_voices (s : State) (x : Memory) : (s.setBuf x).voices = s.voices := rfl
@[simp] theorem setBuf_buf (s : State) (x : Memory) : (s.setBuf x).buf = x := rfl
@[simp] theorem setBuf_cmdFifo (s : State) (x : Memory) : (s.setBuf x).cmdFifo = s.cmdFifo := rfl
@[simp] theorem setBuf_rspFifo (s : State) (x : Memory) : (s.setBuf x).rspFifo = s.rspFifo := rfl
@[simp] theorem setBuf_inFlight (s : State) (x : Memory) : (s.setBuf x).inFlight = s.inFlight := rfl
@[simp] theorem setBuf_port (s : State) (x : Memory) : (s.setBuf x).port = s.port := rfl
@[simp] theorem setBuf_voice (s : State) (x : Memory) (u : Slot) : (s.setBuf x).voice u = s.voice u := rfl

@[simp] theorem setCmdFifo_cfg (s : State) (x : List Cmd) : (s.setCmdFifo x).cfg = s.cfg := rfl
@[simp] theorem setCmdFifo_prng (s : State) (x : List Cmd) : (s.setCmdFifo x).prng = s.prng := rfl
@[simp] theorem setCmdFifo_status (s : State) (x : List Cmd) : (s.setCmdFifo x).status = s.status := rfl
@[simp] theorem setCmdFifo_arpIndex (s : State) (x : List Cmd) : (s.setCmdFifo x).arpIndex = s.arpIndex := rfl
@[simp] theorem setCmdFifo_arpVoice (s : State) (x : List Cmd) : (s.setCmdFifo x).arpVoice = s.arpVoice := rfl
@[simp] theorem setCmdFifo_glide (s : State) (x : List Cmd) : (s.setCmdFifo x).glide = s.glide := rfl
@[simp] theorem setCmdFifo_writeCursor (s : State) (x : List Cmd) : (s.setCmdFifo x).writeCursor = s.writeCursor := rfl
@[simp] theorem setCmdFifo_readCursor (s : State) (x : List Cmd) : (s.setCmdFifo x).readCursor = s.readCursor := rfl
@[simp] theorem setCmdFifo_voices (s : State) (x : List Cmd) : (s.setCmdFifo x).voices = s.voices := rfl
@[simp] theorem setCmdFifo_buf (s : State) (x : List Cmd) : (s.setCmdFifo x).buf = s.buf := rfl
@[simp] theorem setCmdFifo_cmdFifo (s : State) (x : List Cmd) : (s.setCmdFifo x).cmdFifo = x := rfl
@[simp] theorem setCmdFifo_rspFifo (s : State) (x : List Cmd) : (s.setCmdFifo x).rspFifo = s.rspFifo := rfl
@[simp] theorem setCmdFifo_inFlight (s : State) (x : List Cmd) : (s.setCmdFifo x).inFlight = s.inFlight := rfl
@[simp] theorem setCmdFifo_port (s : State) (x : List Cmd) : (s.setCmdFifo x).port = s.port := rfl
@[simp] theorem setCmdFifo_voice (s : State) (x : List Cmd) (u : Slot) : (s.setCmdFifo x).voice u = s.voice u := rfl

@[simp] theorem setRspFifo_cfg (s : State) (x : List U32) : (s.setRspFifo x).cfg = s.cfg := rfl
@[simp] theorem setRspFifo_prng (s : State) (x : List U32) : (s.setRspFifo x).prng = s.prng := rfl
@[simp] theorem setRspFifo_status (s : State) (x : List U32) : (s.setRspFifo x).status = s.status := rfl
@[simp] theorem setRspFifo_arpIndex (s : State) (x : List U32) : (s.setRspFifo x).arpIndex = s.arpIndex := rfl
@[simp] theorem setRspFifo_arpVoice (s : State) (x : List U32) : (s.setRspFifo x).arpVoice = s.arpVoice := rfl
@[simp] theorem setRspFifo_glide (s : State) (x : List U32) : (s.setRspFifo x).glide = s.glide := rfl
@[simp] theorem setRspFifo_writeCursor (s : State) (x : List U32) : (s.setRspFifo x).writeCursor = s.writeCursor := rfl
@[simp] theorem setRspFifo_readCursor (s : State) (x : List U32) : (s.setRspFifo x).readCursor = s.readCursor := rfl
@[simp] theorem setRspFifo_voices (s : State) (x : List U32) : (s.setRspFifo x).voices = s.voices := rfl
@[simp] theorem setRspFifo_buf (s : State) (x : List U32) : (s.setRspFifo x).buf = s.buf := rfl
@[simp] theorem setRspFifo_cmdFifo (s : State) (x : List U32) : (s.setRspFifo x).cmdFifo = s.cmdFifo := rfl
@[simp] theorem setRspFifo_rspFifo (s : State) (x : List U32) : (s.setRspFifo x).rspFifo = x := rfl
@[simp] theorem setRspFifo_inFlight (s : State) (x : List U32) : (s.setRspFifo x).inFlight = s.inFlight := rfl
@[simp] theorem setRspFifo_port (s : State) (x : List U32) : (s.setRspFifo x).port = s.port := rfl
@[simp] theorem setRspFifo_voice (s : State) (x : List U32) (u : Slot) : (s.setRspFifo x).voice u = s.voice u := rfl

@[simp] theorem setInFlight_cfg (s : State) (x : Option InFlight) : (s.setInFlight x).cfg = s.cfg := rfl
@[simp] theorem setInFlight_prng (s : State) (x : Option InFlight) : (s.setInFlight x).prng = s.prng := rfl
@[simp] theorem setInFlight_status (s : State) (x : Option InFlight) : (s.setInFlight x).status = s.status := rfl
@[simp] theorem setInFlight_arpIndex (s : State) (x : Option InFlight) : (s.setInFlight x).arpIndex = s.arpIndex := rfl
@[simp] theorem setInFlight_arpVoice (s : State) (x : Option InFlight) : (s.setInFlight x).arpVoice = s.arpVoice := rfl
@[simp] theorem setInFlight_glide (s : State) (x : Option InFlight) : (s.setInFlight x).glide = s.glide := rfl
@[simp] theorem setInFlight_writeCursor (s : State) (x : Option InFlight) : (s.setInFlight x).writeCursor = s.writeCursor := rfl
@[simp] theorem setInFlight_readCursor (s : State) (x : Option InFlight) : (s.setInFlight x).readCursor = s.readCursor := rfl
@[simp] theorem setInFlight_voices (s : State) (x : Option InFlight) : (s.setInFlight x).voices = s.voices := rfl
@[simp] theorem setInFlight_buf (s : State) (x : Option InFlight) : (s.setInFlight x).buf = s.buf := rfl
@[simp] theorem setInFlight_cmdFifo (s : State) (x : Option InFlight) : (s.setInFlight x).cmdFifo = s.cmdFifo := rfl
@[simp] theorem setInFlight_rspFifo (s : State) (x : Option InFlight) : (s.setInFlight x).rspFifo = s.rspFifo := rfl
@[simp] theorem setInFlight_inFlight (s : State) (x : Option InFlight) : (s.setInFlight x).inFlight = x := rfl
@[simp] theorem setInFlight_port (s : State) (x : Option InFlight) : (s.setInFlight x).port = s.port := rfl
@[simp] theorem setInFlight_voice (s : State) (x : Option InFlight) (u : Slot) : (s.setInFlight x).voice u = s.voice u := rfl

@[simp] theorem setPort_cfg (s : State) (x : Port) : (s.setPort x).cfg = s.cfg := rfl
@[simp] theorem setPort_prng (s : State) (x : Port) : (s.setPort x).prng = s.prng := rfl
@[simp] theorem setPort_status (s : State) (x : Port) : (s.setPort x).status = s.status := rfl
@[simp] theorem setPort_arpIndex (s : State) (x : Port) : (s.setPort x).arpIndex = s.arpIndex := rfl
@[simp] theorem setPort_arpVoice (s : State) (x : Port) : (s.setPort x).arpVoice = s.arpVoice := rfl
@[simp] theorem setPort_glide (s : State) (x : Port) : (s.setPort x).glide = s.glide := rfl
@[simp] theorem setPort_writeCursor (s : State) (x : Port) : (s.setPort x).writeCursor = s.writeCursor := rfl
@[simp] theorem setPort_readCursor (s : State) (x : Port) : (s.setPort x).readCursor = s.readCursor := rfl
@[simp] theorem setPort_voices (s : State) (x : Port) : (s.setPort x).voices = s.voices := rfl
@[simp] theorem setPort_buf (s : State) (x : Port) : (s.setPort x).buf = s.buf := rfl
@[simp] theorem setPort_cmdFifo (s : State) (x : Port) : (s.setPort x).cmdFifo = s.cmdFifo := rfl
@[simp] theorem setPort_rspFifo (s : State) (x : Port) : (s.setPort x).rspFifo = s.rspFifo := rfl
@[simp] theorem setPort_inFlight (s : State) (x : Port) : (s.setPort x).inFlight = s.inFlight := rfl
@[simp] theorem setPort_port (s : State) (x : Port) : (s.setPort x).port = x := rfl
@[simp] theorem setPort_voice (s : State) (x : Port) (u : Slot) : (s.setPort x).voice u = s.voice u := rfl

/-- The voice just written reads back. -/
@[simp] theorem setVoice_voice_same (s : State) (v : Slot) (x : Voice) : (s.setVoice v x).voice v = x := by
  simp [voice, setVoice]

/-- Every other voice is as before. -/
@[simp] theorem setVoice_voice_other (s : State) (u v : Slot) (x : Voice) (h : u ≠ v) :
    (s.setVoice v x).voice u = s.voice u := by
  simp [voice, setVoice, Vector.getElem_set_ne, Fin.val_ne_of_ne h.symm]

/-- A pool is known by its voices. -/
theorem voices_ext {s t : State} (h : ∀ v : Slot, s.voice v = t.voice v) : s.voices = t.voices := by
  apply Vector.ext
  intro i hi
  exact h ⟨i, hi⟩

/-- Writing back the voice that is there changes nothing. -/
@[simp] theorem setVoice_self (s : State) (v : Slot) : s.setVoice v (s.voice v) = s := by
  simp [setVoice, voice]

@[simp] theorem setPrng_self (s : State) : s.setPrng s.prng = s := rfl

end Sys2Proof.Machine.State
end

