-- ==== Sys2Proof/Laws/Ops.lean ====
section
/-! SUPPORT. What `respond` and `raiseCmdError` do, said once: which fields they leave, and that the words given
and the words waiting are together the words asked for. -/

namespace Sys2Proof.Machine

/-! ## Delivering words to the response FIFO -/

/-- Nothing is lost or reordered: the FIFO gains a leading part of the words, the rest waits. -/
theorem deliver_append (ws q : List U32) : (deliver ws q).1 ++ (deliver ws q).2 = q ++ ws := by
  induction ws generalizing q with
  | nil => simp [deliver]
  | cons w ws ih =>
    unfold deliver
    split
    · simpa using ih (q ++ [w])
    · rfl

/-- The FIFO is never filled beyond its depth. -/
theorem deliver_fits {ws q : List U32} (h : q.length ≤ Config.rspFifoDepth) :
    (deliver ws q).1.length ≤ Config.rspFifoDepth := by
  induction ws generalizing q with
  | nil => simpa [deliver]
  | cons w ws ih =>
    unfold deliver
    split
    · exact ih (by simp; omega)
    · exact h

/-- With room for them all, no word waits. -/
theorem deliver_room {ws q : List U32} (h : q.length + ws.length ≤ Config.rspFifoDepth) :
    deliver ws q = (q ++ ws, []) := by
  induction ws generalizing q with
  | nil => simp [deliver]
  | cons w ws ih =>
    have hw : q.length < Config.rspFifoDepth := by simp at h; omega
    simp only [deliver, hw, if_true]
    rw [ih (by simp at h ⊢; omega)]
    simp

/-- A word waits only when the FIFO is full. -/
theorem deliver_waits {ws q : List U32} (hq : q.length ≤ Config.rspFifoDepth) (h : (deliver ws q).2 ≠ []) :
    (deliver ws q).1.length = Config.rspFifoDepth := by
  induction ws generalizing q with
  | nil => simp [deliver] at h
  | cons w ws ih =>
    unfold deliver at h ⊢
    split at h
    · rename_i hlt
      simp only [hlt, if_true]
      exact ih (by simp; omega) h
    · rename_i hge
      simp only [hge, if_false]
      omega

/-- Words that do not all fit leave some waiting. -/
theorem deliver_left {ws q : List U32} (h : Config.rspFifoDepth < q.length + ws.length) (hw : ws ≠ []) :
    (deliver ws q).2 ≠ [] := by
  induction ws generalizing q with
  | nil => exact absurd rfl hw
  | cons w ws ih =>
    unfold deliver
    split
    · refine ih (by simp at h ⊢; omega) ?_
      rintro rfl
      simp at h
      omega
    · simp

/-- Delivering never shortens the FIFO. -/
theorem deliver_grows (ws q : List U32) : q.length ≤ (deliver ws q).1.length := by
  induction ws generalizing q with
  | nil => exact Nat.le_refl _
  | cons w ws ih =>
    unfold deliver
    split
    · exact Nat.le_trans (by simp) (ih _)
    · exact Nat.le_refl _

/-! ## `respond` and `raiseCmdError` leave everything but the responses -/

/-- The two things `respond` can end in: complete, or waiting with its remaining words. -/
theorem respond_cases (ws : List U32) (a : AfterRsp) (s : State) :
    ((deliver ws s.rspFifo).2 = [] ∧
      respond ws a s = finish a ((s.setRspFifo (deliver ws s.rspFifo).1).setInFlight none)) ∨
    ((deliver ws s.rspFifo).2 ≠ [] ∧
      respond ws a s = (s.setRspFifo (deliver ws s.rspFifo).1).setInFlight (some ⟨(deliver ws s.rspFifo).2, a⟩)) := by
  rcases hd : deliver ws s.rspFifo with ⟨q, _ | ⟨w, r⟩⟩
  · left
    simp [respond, drain, hd]
    rfl
  · right
    simp [respond, drain, hd]
    rfl

/-- With room for all its words a response completes at once. -/
theorem respond_room {ws : List U32} (a : AfterRsp) {s : State}
    (h : s.rspFifo.length + ws.length ≤ Config.rspFifoDepth) :
    respond ws a s = finish a ((s.setRspFifo (s.rspFifo ++ ws)).setInFlight none) := by
  have hd := deliver_room h
  rcases respond_cases ws a s with ⟨-, he⟩ | ⟨hne, -⟩
  · rw [he, hd]
  · simp [hd] at hne

/-- No words: the command is complete and nothing else changes. -/
theorem respond_nil (s : State) : respond [] .nothing s = s.setInFlight none := rfl

/-- A response with nothing after it writes the FIFO and the waiting words only. -/
theorem respond_frame (ws : List U32) (s : State) :
    ∃ q p, respond ws .nothing s = (s.setRspFifo q).setInFlight p := by
  rcases respond_cases ws .nothing s with ⟨-, he⟩ | ⟨-, he⟩
  · exact ⟨_, _, he⟩
  · exact ⟨_, _, he⟩

/-- An error without responses sets its STATUS bit; a command in flight is none. -/
theorem raiseCmdError_zero (e : CmdError) (s : State) :
    raiseCmdError e 0 s = (s.setStatus (statusRaise e s.status)).setInFlight none := rfl

/-- An error writes STATUS and the responses only. -/
theorem raiseCmdError_frame (e : CmdError) (n : Nat) (s : State) :
    ∃ q p, raiseCmdError e n s = ((s.setStatus (statusRaise e s.status)).setRspFifo q).setInFlight p := by
  obtain ⟨q, p, h⟩ := respond_frame (List.replicate n 0#32) (s.setStatus (statusRaise e s.status))
  exact ⟨q, p, h⟩

end Sys2Proof.Machine
end

