-- ==== Sys2Proof/Laws/PerInstr.lean ====
section
/-! SUPPORT. Per-command facts about the syntax: the word a command encodes to carries its row's opcode byte and has
every reserved bit zero (30_encoding.md R205). -/

namespace Sys2Proof.Laws.EncodedRow

/-- The encoding of `i` carries the opcode of its row, and matches the row's match under its mask. -/
def Statement (i : Instr) : Prop :=
  opcodeOf (opByte (encode i)) = some (opcodeOfInstr i) ∧
  encode i &&& opMask (opcodeOfInstr i) = opMatch (opcodeOfInstr i)

/-- A byte equal to an opcode selects its row. -/
theorem opcode_some {b c : BitVec 8} {o : Option Opcode} (h : b = c) (ho : opcodeOf c = o) : opcodeOf b = o := h ▸ ho

theorem nop : Statement .nop := ⟨by decide, by decide⟩

theorem noteOn (ch key : BitVec 8) (vel : F32) : Statement (.noteOn ch key vel) := by
  refine ⟨opcode_some (c := 0x01#8) ?_ rfl, ?_⟩ <;> apply BitVec.eq_of_getLsbD_eq <;> intro k hk
  · simp only [encode, opByte, BitVec.getLsbD_extractLsb', BitVec.getLsbD_append]
    interval_cases k <;> simp
  · simp only [encode, opcodeOfInstr, opMask, opMatch, BitVec.getLsbD_and, BitVec.getLsbD_append]
    interval_cases k <;> simp

theorem noteOff (ch key : BitVec 8) : Statement (.noteOff ch key) := by
  refine ⟨opcode_some (c := 0x02#8) ?_ rfl, ?_⟩ <;> apply BitVec.eq_of_getLsbD_eq <;> intro k hk
  · simp only [encode, opByte, BitVec.getLsbD_extractLsb', BitVec.getLsbD_append]
    interval_cases k <;> simp
  · simp only [encode, opcodeOfInstr, opMask, opMatch, BitVec.getLsbD_and, BitVec.getLsbD_append]
    interval_cases k <;> simp

theorem render (count : U32) : Statement (.render count) := by
  refine ⟨opcode_some (c := 0x03#8) ?_ rfl, ?_⟩ <;> apply BitVec.eq_of_getLsbD_eq <;> intro k hk
  · simp only [encode, opByte, BitVec.getLsbD_extractLsb', BitVec.getLsbD_append]
    interval_cases k <;> simp
  · simp only [encode, opcodeOfInstr, opMask, opMatch, BitVec.getLsbD_and, BitVec.getLsbD_append]
    interval_cases k <;> simp

theorem cfgWrite (addr : BitVec 16) (data : U32) : Statement (.cfgWrite addr data) := by
  refine ⟨opcode_some (c := 0x04#8) ?_ rfl, ?_⟩ <;> apply BitVec.eq_of_getLsbD_eq <;> intro k hk
  · simp only [encode, opByte, BitVec.getLsbD_extractLsb', BitVec.getLsbD_append]
    interval_cases k <;> simp
  · simp only [encode, opcodeOfInstr, opMask, opMatch, BitVec.getLsbD_and, BitVec.getLsbD_append]
    interval_cases k <;> simp

theorem regRead (addr : BitVec 16) : Statement (.regRead addr) := by
  refine ⟨opcode_some (c := 0x05#8) ?_ rfl, ?_⟩ <;> apply BitVec.eq_of_getLsbD_eq <;> intro k hk
  · simp only [encode, opByte, BitVec.getLsbD_extractLsb', BitVec.getLsbD_append]
    interval_cases k <;> simp
  · simp only [encode, opcodeOfInstr, opMask, opMatch, BitVec.getLsbD_and, BitVec.getLsbD_append]
    interval_cases k <;> simp

theorem popOutput : Statement .popOutput := ⟨by decide, by decide⟩

theorem renderScope (osc : BitVec 8) (count : U32) : Statement (.renderScope osc count) := by
  refine ⟨opcode_some (c := 0x07#8) ?_ rfl, ?_⟩ <;> apply BitVec.eq_of_getLsbD_eq <;> intro k hk
  · simp only [encode, opByte, BitVec.getLsbD_extractLsb', BitVec.getLsbD_append]
    interval_cases k <;> simp
  · simp only [encode, opcodeOfInstr, opMask, opMatch, BitVec.getLsbD_and, BitVec.getLsbD_append]
    interval_cases k <;> simp

end Sys2Proof.Laws.EncodedRow
end

