-- ==== Sys2Proof/Laws/Render.lean ====
section
/-! SUPPORT. What one voice sample, one slot and one sample of RENDER can do, said once. -/

namespace Sys2Proof.Machine

/-- What no sample writes of a voice: key, velocity, release time, ALIVE and the saved values. -/
structure Voice.SameNote (v w : Voice) : Prop where
  key      : w.key = v.key
  vel      : w.vel = v.vel
  relTime  : w.relTime = v.relTime
  alive    : w.alive = v.alive
  savedAmp : w.savedAmp = v.savedAmp
  savedFlt : w.savedFlt = v.savedFlt

theorem Voice.SameNote.refl (v : Voice) : v.SameNote v := ⟨rfl, rfl, rfl, rfl, rfl, rfl⟩

theorem Voice.SameNote.trans {u v w : Voice} (h : u.SameNote v) (k : v.SameNote w) : u.SameNote w :=
  ⟨k.key.trans h.key, k.vel.trans h.vel, k.relTime.trans h.relTime, k.alive.trans h.alive,
    k.savedAmp.trans h.savedAmp, k.savedFlt.trans h.savedFlt⟩

/-- A died voice's sample changes nothing (R474). -/
theorem voiceSample_died (F : Config.Fns) (c : Cfg) (gc : F32) {v : Voice} (acc : F32) (g : Prng)
    (h : v.died = true) : voiceSample F c gc v acc g = ⟨acc, v, g⟩ := by
  simp [voiceSample, h]

/-- Ageing writes the time only. -/
@[simp] theorem ageVoice_died (v : Voice) : (ageVoice v).died = v.died := rfl

/-- An expired amplitude envelope reads exactly `0.0` (R301). -/
theorem envEval_expired (c : Cfg) (v : Voice) (w : EnvSel) (h : (envEval c v w).2 = true) :
    (envEval c v w).1 = Fp.pos0 := by
  revert h
  simp only [envEval, envReleased]
  split
  · simp
  · split <;> simp

/-- The three things a voice sample can do: a died voice is skipped; a silent voice only ages, and dies when its
amplitude envelope expires; any other voice sounds. -/
theorem voiceSample_cases (F : Config.Fns) (c : Cfg) (gc : F32) (v : Voice) (acc : F32) (g : Prng) :
    (v.died = true ∧ voiceSample F c gc v acc g = ⟨acc, v, g⟩) ∨
    (v.died = false ∧ Fp.eq (envEval c (ageVoice v) .amp).1 Fp.pos0 = true ∧
      voiceSample F c gc v acc g = ⟨acc, { ageVoice v with died := (envEval c (ageVoice v) .amp).2 }, g⟩) ∨
    (v.died = false ∧ Fp.eq (envEval c (ageVoice v) .amp).1 Fp.pos0 = false ∧
      (envEval c (ageVoice v) .amp).2 = false ∧
      voiceSample F c gc v acc g = soundVoice F c gc (envEval c (ageVoice v) .amp).1 (ageVoice v) acc g) := by
  have hx := envEval_expired c (ageVoice v) .amp
  have ha := ageVoice_died v
  have h0 : Fp.eq Fp.pos0 Fp.pos0 = true := by decide
  simp only [voiceSample]
  generalize envEval c (ageVoice v) .amp = e at *
  generalize ageVoice v = w at *
  obtain ⟨x, b⟩ := e
  cases hd : v.died
  · rw [hd] at ha
    have hw : { w with died := false } = w := by rw [← ha]
    cases b
    · cases hz : Fp.eq x Fp.pos0 <;> simp [hw]
    · simp_all
  · simp

/-- What a sounding voice does, at a base pitch `nb` that is named apart (R476 to R478). -/
theorem soundVoice_eq (F : Config.Fns) (c : Cfg) (gc a nb : F32) (v : Voice) (acc : F32) (g : Prng)
    (h : basePitch c gc v = nb) :
    let r0 := oscStep F c.osc[(0 : OscIx)] (Fp.sec v.time) nb Fp.pos0 v.osc[(0 : OscIx)] g
    let r1 := oscStep F c.osc[(1 : OscIx)] (Fp.sec v.time) nb r0.sum v.osc[(1 : OscIx)] r0.prng
    let fl := filterStep F c r1.sum v.filter
    let mixed := Fp.lerp r1.sum fl.fout (Fp.mul (envEval c v .flt).1 c.filterDrive)
    soundVoice F c gc a v acc g =
      ⟨Fp.add acc (Fp.mul (Fp.mul (Fp.mul mixed a) v.vel) Fp.c0_5),
        { v with filter := fl, osc := #v[r0.osc, r1.osc] }, r1.prng⟩ := by
  subst h
  intros
  rfl

/-- A sounding voice keeps its note, its time and its flags. -/
theorem soundVoice_voice (F : Config.Fns) (c : Cfg) (gc a : F32) (v : Voice) (acc : F32) (g : Prng) :
    ∃ fl osc, (soundVoice F c gc a v acc g).voice = { v with filter := fl, osc := osc } := ⟨_, _, rfl⟩

/-- A voice sample keeps the note (R475 to R478 write time, DIED, oscillators and filter only). -/
theorem voiceSample_sameNote (F : Config.Fns) (c : Cfg) (gc : F32) (v : Voice) (acc : F32) (g : Prng) :
    v.SameNote (voiceSample F c gc v acc g).voice := by
  rcases voiceSample_cases F c gc v acc g with ⟨-, h⟩ | ⟨-, -, h⟩ | ⟨-, -, -, h⟩ <;> rw [h]
  · exact Voice.SameNote.refl v
  · exact ⟨rfl, rfl, rfl, rfl, rfl, rfl⟩
  · exact ⟨rfl, rfl, rfl, rfl, rfl, rfl⟩

/-- What visiting a slot leaves: everything but the slot's voice and the generator. -/
theorem renderSlot_state (F : Config.Fns) (r : F32 × State) (v : Slot) :
    ∃ x g, (renderSlot F r v).2 = (r.2.setVoice v x).setPrng g ∧
      (∃ acc, (renderSlot F r v).1 = acc ∧
        (⟨acc, x, g⟩ : VoiceRun) = voiceSample F r.2.cfg r.2.glide.cur (r.2.voice v) r.1 r.2.prng) :=
  ⟨_, _, rfl, _, rfl, rfl⟩

/-- What a sample leaves before its frame is written: every field but voices, generator and glide pitch. -/
structure SameMachine (s t : State) : Prop where
  cfg         : t.cfg = s.cfg
  status      : t.status = s.status
  arpIndex    : t.arpIndex = s.arpIndex
  arpVoice    : t.arpVoice = s.arpVoice
  target      : t.glide.target = s.glide.target
  glideRate   : t.glide.rate = s.glide.rate
  readCursor  : t.readCursor = s.readCursor
  cmdFifo     : t.cmdFifo = s.cmdFifo
  rspFifo     : t.rspFifo = s.rspFifo
  inFlight    : t.inFlight = s.inFlight
  port        : t.port = s.port

theorem SameMachine.refl (s : State) : SameMachine s s := ⟨rfl, rfl, rfl, rfl, rfl, rfl, rfl, rfl, rfl, rfl, rfl⟩

theorem SameMachine.trans {s t u : State} (h : SameMachine s t) (k : SameMachine t u) : SameMachine s u :=
  ⟨k.cfg.trans h.cfg, k.status.trans h.status, k.arpIndex.trans h.arpIndex, k.arpVoice.trans h.arpVoice,
    k.target.trans h.target, k.glideRate.trans h.glideRate, k.readCursor.trans h.readCursor,
    k.cmdFifo.trans h.cmdFifo, k.rspFifo.trans h.rspFifo, k.inFlight.trans h.inFlight, k.port.trans h.port⟩

/-- Folding slots keeps whatever visiting one slot keeps: the one induction over the per-sample loop. -/
theorem foldSlots_keeps (F : Config.Fns) (P : State → Prop)
    (step : ∀ r v, P r.2 → P (renderSlot F r v).2) (vs : List Slot) (r : F32 × State) (h : P r.2) :
    P (vs.foldl (renderSlot F) r).2 := by
  induction vs generalizing r with
  | nil => exact h
  | cons v vs ih => exact ih _ (step r v h)

/-- Visiting a list of slots leaves every slot outside it. -/
theorem foldSlots_other (F : Config.Fns) (u : Slot) (vs : List Slot) (r : F32 × State) (h : u ∉ vs) :
    (vs.foldl (renderSlot F) r).2.voice u = r.2.voice u := by
  induction vs generalizing r with
  | nil => rfl
  | cons v vs ih =>
    obtain ⟨hv, hvs⟩ := not_or.mp (List.mem_cons.not.mp h)
    obtain ⟨x, g, e, -⟩ := renderSlot_state F r v
    rw [List.foldl_cons, ih _ hvs, e]
    exact State.setVoice_voice_other _ _ _ _ hv

/-- Rendering keeps whatever one sample keeps: the one induction over the samples of a block. -/
theorem renderSamples_keeps (F : Config.Fns) (P : State → Prop) (step : ∀ s, P s → P (renderSample F s)) (n : Nat)
    (s : State) (h : P s) : P (renderSamples F n s) := by
  induction n generalizing s with
  | zero => exact h
  | succ n ih => exact ih _ (step s h)

/-- The first samples, then the rest. -/
theorem renderSamples_add (F : Config.Fns) (m n : Nat) (s : State) :
    renderSamples F (m + n) s = renderSamples F n (renderSamples F m s) := by
  induction m generalizing s with
  | zero => simp [renderSamples]
  | succ m ih => rw [Nat.add_right_comm]; exact ih _

/-- The glide step of a sample writes the glide pitch only. -/
theorem glideSample_machine (s : State) : SameMachine s (glideSample s) := by
  unfold glideSample
  split <;> try exact SameMachine.refl s
  refine ⟨rfl, rfl, rfl, rfl, ?_, ?_, rfl, rfl, rfl, rfl, rfl⟩ <;>
  · simp only [State.setGlide_glide, glideStep]
    split <;> [skip; split] <;> rfl

/-- The voices of a sample leave the rest of the machine, the buffer and the write cursor. -/
theorem mixVoices_machine (F : Config.Fns) (s : State) :
    SameMachine s (mixVoices F s).2 ∧ (mixVoices F s).2.buf = s.buf ∧ (mixVoices F s).2.writeCursor = s.writeCursor := by
  have hg : (glideSample s).buf = s.buf ∧ (glideSample s).writeCursor = s.writeCursor := by
    unfold glideSample
    split <;> exact ⟨rfl, rfl⟩
  refine foldSlots_keeps F (fun t => SameMachine s t ∧ t.buf = s.buf ∧ t.writeCursor = s.writeCursor) ?_ _ _
    ⟨glideSample_machine s, hg.1, hg.2⟩
  intro r v ⟨h, hb, hw⟩
  exact ⟨h.trans ⟨rfl, rfl, rfl, rfl, rfl, rfl, rfl, rfl, rfl, rfl, rfl⟩, hb, hw⟩

/-- One sample leaves the machine, writes one frame at the write cursor and advances it (R479, R161). -/
theorem renderSample_machine (F : Config.Fns) (s : State) :
    SameMachine s (renderSample F s) ∧
    (renderSample F s).buf = Memory.write s.buf s.writeCursor.val (frameOf s.cfg (mixVoices F s).1) ∧
    (renderSample F s).writeCursor = nextCursor s.writeCursor := by
  obtain ⟨h, hb, hw⟩ := mixVoices_machine F s
  refine ⟨⟨h.cfg, h.status, h.arpIndex, h.arpVoice, h.target, h.glideRate, h.readCursor, h.cmdFifo, h.rspFifo,
    h.inFlight, h.port⟩, ?_, ?_⟩
  · simp [renderSample, pushFrame, hb, hw, h.cfg]
  · simp [renderSample, pushFrame, hw]

/-- The arpeggio update of the same held voices from the same arpeggio registers selects the same again (R472). -/
theorem arpUpdate_again {s t : State} (h : heldSlots t = heldSlots s) (hv : t.arpVoice = (arpUpdate s).arpVoice)
    (hi : t.arpIndex = (arpUpdate s).arpIndex) : arpUpdate (t.setArp s.arpIndex s.arpVoice) = t := by
  have h' : heldSlots (t.setArp s.arpIndex s.arpVoice) = heldSlots s := h
  unfold arpUpdate at *
  by_cases he : heldSlots s = []
  · simp only [h', he, dite_true, State.setArp_arpVoice, State.setArp_arpIndex] at *
    rw [← hv, ← hi]
    rfl
  · simp only [h', he, dite_false, State.setArp_arpVoice, State.setArp_arpIndex] at *
    rw [← hv, ← hi]
    rfl

end Sys2Proof.Machine
end

