-- ==== Sys2Proof/Tests/Slice0.lean ====
section
/-! SUPPORT. The author's own tests: the well-formedness checks, words of the spec decoded, one step or one operation at
a time against the spec's vectors (95_test_vectors.md and the worked examples of the family files), and for every
statement with hypotheses a named witness that meets them. -/

namespace Sys2Proof.Tests

open Sys2Proof.Machine

/-! ## Helpers -/

/-- The next state of an outcome; the reset state otherwise. -/
def after (o : Host.Outcome State Fault Refusal) : State :=
  match o with
  | .next s => s
  | .fault _ => State.reset
  | .refused _ => State.reset

/-- One step from reset with the word in the command FIFO. -/
def first (w : Nat) : State := after (step (State.reset.withFetchWord 64 w))

/-- One command word on a state. -/
def run (w : Cmd) (s : State) : State := after (runWord w s)

/-- Voices by kind: held, released and sounding, died. -/
def held (k : BitVec 8) : Voice := { Voice.reset with key := k, vel := Fp.one, alive := true }
def tail (k : BitVec 8) : Voice := { Voice.reset with key := k, vel := Fp.one, time := 5#32, relTime := 2#32 }
def dead (k : BitVec 8) : Voice := { tail k with died := true }

/-- The reset state in a mode, with a configuration register written. -/
def inMode (m : Mode) : State := State.reset.setCfg { Cfg.reset with mode := m }
def with1 (r : Reg) (w : U32) (s : State) : State := writeReg r w s

/-- Six held voices, keys 60 to 65. -/
def sixHeld : State :=
  (((((State.reset.setVoice 0 (held 60#8)).setVoice 1 (held 61#8)).setVoice 2 (held 62#8)).setVoice 3
    (held 63#8)).setVoice 4 (held 64#8)).setVoice 5 (held 65#8)

/-- A released voice 0 with key 60 and a died voice 3 (R443). -/
def tailAndDead : State := (State.reset.setVoice 0 (tail 60#8)).setVoice 3 (dead 63#8)

/-- Open functions for the vectors that do not depend on them: `c^30` is 0 for the cursors used, the rest unused. -/
def zeroFns : Config.Fns :=
  ⟨powWith fun _ _ => 0#32, expWith fun _ => Fp.one, tanhWith fun _ => 0#32, sinWith fun _ => 0#32⟩

/-- The configuration of program P1 (95_test_vectors.md 3.1) with its note. -/
def p1 : State :=
  let s := with1 (.global .gainL) 0x3F800000#32 State.reset
  let s := with1 (.global .gainR) 0x3F000000#32 s
  let s := with1 (.env .amp .sustain) 0x3F800000#32 s
  let s := with1 (.lfo 0 4 .base) 0x3F800000#32 s
  let s := with1 (.lfo 0 2 .base) 0x3F000000#32 s
  let s := with1 (.lfo 0 1 .base) 0x3F800000#32 s
  run 0x010045003F800000#64 s

/-- Portamento mode with PORTA_TIME 0.5, voice 0 held on 60 and the glide at 60.0 (R443). -/
def porta : State :=
  ((with1 (.global .portaTime) 0x3F000000#32 (inMode .portamento)).setVoice 0 (held 60#8)).setGlide
    ⟨0x42700000#32, 0x42700000#32, 0#32⟩

/-- Arpeggio mode with voices 0 and 2 held. -/
def arp : State := ((inMode .arpeggio).setVoice 0 (held 60#8)).setVoice 2 (held 64#8)

/-- A response FIFO with `n` places left. -/
def roomOnly (n : Nat) : State := State.reset.setRspFifo (List.replicate (Config.rspFifoDepth - n) 0#32)

/-! ## Well-formedness: an ill-formed command for each check of R212 -/

theorem test_wf_noteOn_key : (Instr.noteOn 0#8 128#8 Fp.one).wellFormed = false := by decide
theorem test_wf_noteOff_key : (Instr.noteOff 0#8 255#8).wellFormed = false := by decide
theorem test_wf_cfgWrite_unmapped : (Instr.cfgWrite 0x000B#16 0#32).wellFormed = false := by decide
theorem test_wf_cfgWrite_readOnly : (Instr.cfgWrite 0x0801#16 0#32).wellFormed = false := by decide
theorem test_wf_cfgWrite_voice : (Instr.cfgWrite 0x1000#16 0#32).wellFormed = false := by decide
theorem test_wf_cfgWrite_mode : (Instr.cfgWrite 0x0000#16 3#32).wellFormed = false := by decide
theorem test_wf_cfgWrite_channel : (Instr.cfgWrite 0x0001#16 256#32).wellFormed = false := by decide
theorem test_wf_cfgWrite_combine : (Instr.cfgWrite 0x0102#16 3#32).wellFormed = false := by decide
theorem test_wf_cfgWrite_shape : (Instr.cfgWrite 0x0115#16 5#32).wellFormed = false := by decide
theorem test_wf_cfgWrite_flags : (Instr.cfgWrite 0x0116#16 4#32).wellFormed = false := by decide
theorem test_wf_regRead_unmapped : (Instr.regRead 0x2000#16).wellFormed = false := by decide
theorem test_wf_renderScope_osc : (Instr.renderScope 2#8 3#32).wellFormed = false := by decide
theorem test_wf_accepts : (Instr.noteOn 9#8 127#8 0x7FC00001#32).wellFormed = true ∧
    (Instr.cfgWrite 0x0800#16 0xFFFFFFFF#32).wellFormed = true ∧ (Instr.renderScope 1#8 8#32).wellFormed = true := by
  decide

/-! ## Decoding: the words of 95_test_vectors.md 2.1 and R569, one for every constructor -/

theorem test_decode_nop : decode 0x0000000000000000#64 = .instr .nop := by decide
theorem test_decode_noteOn : decode 0x01033C003F000000#64 = .instr (.noteOn 3#8 0x3C#8 0x3F000000#32) := by decide
theorem test_decode_noteOff : decode 0x02003C0000000000#64 = .instr (.noteOff 0#8 0x3C#8) := by decide
theorem test_decode_render : decode 0x030000000000AC44#64 = .instr (.render 44100#32) := by decide
theorem test_decode_cfgWrite : decode 0x040000133DCCCCCD#64 = .instr (.cfgWrite 0x0013#16 0x3DCCCCCD#32) := by decide
theorem test_decode_regRead : decode 0x0500104400000000#64 = .instr (.regRead 0x1044#16) := by decide
theorem test_decode_popOutput : decode 0x0600000000000000#64 = .instr .popOutput := by decide
theorem test_decode_renderScope : decode 0x0701000000000008#64 = .instr (.renderScope 1#8 8#32) := by decide
theorem test_decode_reservedOpcode : decode 0x08FFFFFFFFFFFFFF#64 = .reservedOpcode := by decide
theorem test_decode_reservedBit : decode 0x0500080000000001#64 = .reservedBits .regRead 1#32 := by decide
theorem test_decodeTableWord : decodeTableWord 64 0x0702000000000003 = some (.renderScope 2#8 3#32) := by decide

/-! ## Assembler (R220, R221; 95_test_vectors.md 2.1) -/

theorem test_asm_noteOn : assembleWords "note_on 0, 69, 1.0".toList = some [0x010045003F800000#64] := by decide +kernel
theorem test_asm_noteOff : assembleWords "note_off 0, 60".toList = some [0x02003C0000000000#64] := by decide +kernel
theorem test_asm_render : assembleWords "render 44100".toList = some [0x030000000000AC44#64] := by decide +kernel
theorem test_asm_cfgWrite : assembleWords "cfg_write AMP_RELEASE, 0.1 ; R".toList = some [0x040000133DCCCCCD#64] := by
  decide +kernel
/-- R220's own exponent literal, as its nearest binary32. -/
theorem test_asm_exponent : valueOperand "2e-3".toList = some 0x3B03126F#32 := by decide +kernel
theorem test_asm_lfoBase : assembleWords "lfo_base 0, 4, 1.0".toList = some [0x040001543F800000#64] := by decide +kernel
theorem test_asm_setMode : assembleWords "set_mode porta".toList = some [0x0400000000000002#64] := by decide +kernel
theorem test_asm_clearStatus : assembleWords "clear_status".toList = some [0x040008000000000F#64] := by decide +kernel
theorem test_asm_sync : assembleWords "sync".toList = some [0x0500080100000000#64] := by decide +kernel
theorem test_asm_regRead : assembleWords "reg_read V[1].FLAGS".toList = some [0x0500104400000000#64] := by decide +kernel
theorem test_asm_popFrames : assembleWords "pop_frames 2".toList =
    some [0x0600000000000000#64, 0x0600000000000000#64] := by decide +kernel
theorem test_asm_renderScope : assembleWords "render_scope 1, 8".toList = some [0x0701000000000008#64] := by
  decide +kernel

/-! ## Numerics (95_test_vectors.md 2.2, rows M1 to M13) -/

theorem test_wrap : Fp.wrap Fp.one = 0#32 ∧ Fp.wrap 0x40200000#32 = 0x3F000000#32 ∧
    Fp.wrap 0xBE800000#32 = 0x3F400000#32 ∧ Fp.wrap 0x3F7FFFFF#32 = 0x3F7FFFFF#32 := by decide
theorem test_wrap_guard : Fp.wrap 0xAEDBE6FF#32 = 0#32 ∧ Fp.wrap Fp.nan = 0#32 ∧ Fp.wrap 0x7F800000#32 = 0#32 := by
  decide
theorem test_wrap_step : Fp.add 0x3F7FFFFF#32 Fp.dt = 0x3F8000BE#32 ∧ Fp.wrap 0x3F8000BE#32 = 0x37BE0000#32 := by decide
theorem test_sec : Fp.sec 1#32 = Fp.dt ∧ Fp.sec 22050#32 = 0x3F000000#32 ∧ Fp.sec 44100#32 = Fp.one ∧
    Fp.sec 0xFFFFFFFF#32 = 0x47BE37C6#32 := by decide
theorem test_fmax : Fp.fmax Fp.nan 0#32 = 0#32 ∧ Fp.fmax 0#32 Fp.nan = Fp.nan ∧ Fp.fmax 0x80000000#32 0#32 = 0#32 := by
  decide
theorem test_clamp : Fp.clamp Fp.nan 0#32 Fp.one = 0#32 ∧ Fp.clamp 0x80000000#32 0#32 Fp.one = 0x80000000#32 ∧
    Fp.clamp 0x40E00000#32 Fp.negOne Fp.one = Fp.one := by decide
theorem test_ipow : Fp.ipow Fp.c0_4 10 = 0x38DBE702#32 ∧ Fp.mul 0x38DBE702#32 Fp.thirty = 0x3B4E2892#32 := by decide
theorem test_decimation : (shapingOf 0#32 0#32 0#32).decat = 0x447A4000#32 := by decide
/-- IEEE 754: halfway cases go to the even neighbour, `2^24 + 1` and the least subnormal halved. -/
theorem test_round_ties : Fp.ofInt 16777217 = 0x4B800000#32 ∧ Fp.mul 1#32 Fp.c0_5 = 0#32 ∧
    Fp.mul 3#32 Fp.c0_5 = 2#32 := by decide
theorem test_specials : Fp.div Fp.one 0x80000000#32 = 0xFF800000#32 ∧ Fp.div 0#32 0#32 = Fp.nan ∧
    Fp.sub 0x7F800000#32 0x7F800000#32 = Fp.nan ∧ Fp.mul 0#32 0xFF800000#32 = Fp.nan ∧
    Fp.add 0x7F7FFFFF#32 0x7F7FFFFF#32 = 0x7F800000#32 ∧ Fp.sub Fp.one Fp.one = 0#32 := by decide

/-! ## Envelope (R308, rows E12, E13) -/

/-- The configuration with the amplitude envelope of a row. -/
def envOf (a d s r : F32) : Cfg := { Cfg.reset with amp := ⟨a, d, s, r⟩ }

theorem test_env_sustain : envEval (envOf 0#32 0#32 Fp.c0_75 0#32) { held 60#8 with time := 1#32 } .amp =
    (Fp.c0_75, false) := by decide
theorem test_env_attack : envEval (envOf Fp.c0_5 0#32 0#32 0#32)
    { held 60#8 with time := 11025#32, savedAmp := Fp.c0_25 } .amp = (0x3F200000#32, false) := by decide
theorem test_env_decay : envEval (envOf Fp.c0_5 Fp.c0_5 Fp.c0_5 0#32) { held 60#8 with time := 33075#32 } .amp =
    (Fp.c0_75, false) := by decide
theorem test_env_release : envEval (envOf 0#32 0#32 0#32 0x3DCCCCCD#32)
    { tail 60#8 with time := 11030#32, relTime := 5#32, savedAmp := Fp.c0_75 } .amp = (0x3EC00000#32, false) := by decide
theorem test_env_expired : envEval (envOf 0#32 0#32 0#32 0x3DCCCCCD#32)
    { tail 60#8 with time := 22055#32, relTime := 5#32, savedAmp := Fp.c0_75 } .amp = (0#32, true) := by decide
theorem test_env_negative_release : envEval (envOf 0#32 0#32 0#32 Fp.negOne) (tail 60#8) .amp = (0#32, true) ∧
    envCapture (envOf 0#32 0#32 0#32 0x3DCCCCCD#32) (dead 60#8) .amp = 0#32 := by decide

/-! ## LFO (R333, R338) -/

theorem test_wave_saw : (wave zeroFns .saw 0x3F7FFFFF#32 Prng.reset).1 = 0xBF7FFFFE#32 ∧
    (wave zeroFns .triangle 0x3F7FFFFF#32 Prng.reset).1 = 0xB4800000#32 := by decide
theorem test_prng : prngNext Prng.reset = ⟨0x3B782F49#32, 0xD16E48E2#32⟩ ∧
    prngOut (prngNext Prng.reset) = 0x3EEDE0BD#32 := by decide
/-- R335, R338: Random answers the advanced generator. -/
theorem test_wave_random : (wave zeroFns .random 0#32 Prng.reset).1 = 0x3EEDE0BD#32 := by decide
theorem test_lfo_running : (lfoEval zeroFns ⟨0#32, 0#32, Fp.c0_5, 0#32, Fp.two, .square, false, false⟩ (Fp.sec 1#32)
    Fp.c0_25 Prng.reset).1 = 0x40400000#32 := by decide
theorem test_lfo_ramp : (lfoEval zeroFns ⟨Fp.c0_5, 0#32, Fp.c0_5, 0#32, Fp.two, .square, false, true⟩ (Fp.sec 11025#32)
    Fp.c0_25 Prng.reset).1 = Fp.one := by decide

/-! ## Oscillator and filter (R375, R376, R409) -/

/-- R375: one oscillator step at TIME 1, key 69, everything at reset but the Volume BASE. -/
theorem test_osc_step :
    let r := oscStep zeroFns (with1 (.lfo 0 4 .base) Fp.one State.reset).cfg.osc[(0 : OscIx)] (Fp.sec 1#32) Fp.c69 0#32
      OscState.reset Prng.reset
    r.sum = 0x3F19999A#32 ∧ r.osc.prev = 0x3F19999A#32 ∧ r.osc.phase = 0x3C2377EE#32 := by decide +kernel
/-- R376, last two rows: decimation at Decat 1.0 and 0.5. -/
theorem test_quantize : quantize 0x3E99999A#32 (shapingOf 0#32 0#32 Fp.one).decat = Fp.c0_25 ∧
    quantize 0x3E99999A#32 (shapingOf 0#32 0#32 Fp.c0_5).decat = 0x3E8E38E4#32 := by decide
theorem test_shaping : (shapingOf Fp.c0_5 Fp.one 0#32).c = 0x3F58F0EE#32 ∧
    (shapingOf Fp.c0_5 Fp.one 0#32).flat = Fp.eight ∧ distort Fp.one Fp.one = Fp.negOne := by decide +kernel
theorem test_filter_polynomials : cutoffCorrection (cutoffFc Fp.c0_25) = 0x3F6DD7E2#32 ∧
    amplitudeCorrection (cutoffFc Fp.c0_25) = 0x3F952C08#32 ∧ cutoffCorrection (cutoffFc Fp.c0_5) = 0x3F6593A9#32 ∧
    amplitudeCorrection (cutoffFc Fp.c0_5) = 0x3F9B020C#32 ∧ cutoffCorrection (cutoffFc Fp.two) = 0x3F842268#32 ∧
    amplitudeCorrection (cutoffFc Fp.two) = 0x3F6EE2EB#32 := by decide
theorem test_filter_closed : filterCoef fns Fp.nan = ⟨0x3F7F2E49#32, 0#32⟩ := by decide +kernel

/-! ## One step per command -/

/-- R500. -/
theorem test_nop : first 0 = State.reset := by decide
/-- R443, first row. -/
theorem test_noteOn : (first 0x01003C003F000000).voice 0 = { held 60#8 with vel := Fp.c0_5 } := by decide
/-- R443, rows 4 to 6: a released voice is idle, a died one is taken first, a holder before both. -/
theorem test_noteOn_search : alloc 61#8 (State.reset.setVoice 0 (tail 60#8)) = some 0 ∧
    alloc 61#8 tailAndDead = some 3 ∧ alloc 60#8 tailAndDead = some 0 ∧ alloc 62#8 sixHeld = some 2 := by decide
/-- R443: the Portamento glide toward 72. -/
theorem test_noteOn_porta : (run 0x010048003F800000#64 porta).glide = ⟨0x42700000#32, 0x42900000#32, 0x41C00000#32⟩ ∧
    ((run 0x010048003F800000#64 porta).voice 0).key = 72#8 := by decide +kernel
/-- Program P3, command 11: the release saves TIME and clears ALIVE. -/
theorem test_noteOff : let v := (run 0x02003C0000000000#64 (porta.setVoice 0 { held 60#8 with time := 22050#32 })).voice 0
    v.alive = false ∧ v.relTime = 22050#32 ∧ v.died = false := by decide
/-- R443: no held voice has the key. -/
theorem test_noteOff_noop : run 0x0200420000000000#64 sixHeld = sixHeld := by decide
/-- Row D1. -/
theorem test_render : (first 0x0300000000000003).writeCursor = 3 ∧
    ((first 0x0300000000000003).voice 5).died = true ∧ ((first 0x0300000000000003).voice 5).time = 1#32 ∧
    (first 0x0300000000000003).buf = [] := by decide +kernel
/-- R484 and program P1: the first two frames. -/
theorem test_render_frames : (renderSamples zeroFns 2 p1).buf =
    [(0, ⟨0x3E99999A#32, 0x3E19999A#32⟩), (1, ⟨0x3ED70A3E#32, 0x3E570A3E#32⟩)] := by decide +kernel
/-- Property T6 with two held voices: blocks 2 and 3 sound the second. -/
theorem test_arp : arpUpdate (arp.setArp 2 0) = arp.setArp 3 2 ∧ arpUpdate (arp.setArp 3 2) = arp.setArp 0 2 := by decide
/-- R501: a NaN pattern is kept (R253). -/
theorem test_cfgWrite : (first 0x0400015C7FC00001).status = 4#4 ∧
    readReg (.lfo 0 4 .base) (first 0x040001547FC00001) = 0x7FC00001#32 := by decide
/-- Row H9. -/
theorem test_cfgWrite_status : (run 0x0400080000000001#64 (State.reset.setStatus 5#4)).status = 4#4 := by decide
/-- Row H1. -/
theorem test_regRead : (first 0x0500080100000000).rspFifo = [0x50534F43#32] := by decide
/-- R60: KEY of a voice never triggered. -/
theorem test_regRead_key : (first 0x0500114000000000).rspFifo = [0xFF#32] := by decide
/-- Rows H5, H6: negative samples read 0, -0.0 is kept, 1.5 reads 1. -/
theorem test_popOutput : popWords (State.reset.setBuf [(0, ⟨0xBF000000#32, 0x80000000#32⟩)]) = [0#32, 0x80000000#32] ∧
    popWords (State.reset.setBuf [(0, ⟨Fp.nan, 0x3FC00000#32⟩)]) = [0#32, Fp.one] := by decide
/-- Row H8. -/
theorem test_popOutput_wraps : (run 0x0600000000000000#64 (State.reset.setReadCursor 44099)).readCursor = 0 := by decide
/-- R506, first row. -/
theorem test_renderScope : scopeWords zeroFns p1.cfg.osc[(0 : OscIx)] 4 =
    [Fp.one, Fp.one, Fp.negOne, Fp.negOne] := by decide +kernel
/-- R506, last row, first word. -/
theorem test_renderScope_reset : first 0x0700000000000001 = State.reset.setRspFifo [0#32] := by
  decide +kernel

/-! ## Command errors (R569) -/

theorem test_error_opcode : first 0x0800000000000000 = State.reset.setStatus 1#4 := by decide
theorem test_error_reserved : first 0x0000000000000001 = State.reset.setStatus 2#4 ∧
    first 0x0100000100000000 = State.reset.setStatus 2#4 ∧ first 0x0300000100000000 = State.reset.setStatus 2#4 := by
  decide
theorem test_error_pop : first 0x0601000000000000 = (State.reset.setStatus 2#4).setRspFifo [0#32, 0#32] := by decide
theorem test_error_address : first 0x0500200000000000 = (State.reset.setStatus 4#4).setRspFifo [0#32] ∧
    first 0x0400080100000000 = State.reset.setStatus 4#4 := by decide
theorem test_error_value : first 0x0100800001000000 = State.reset.setStatus 8#4 ∧
    first 0x0100FF003F800000 = State.reset.setStatus 8#4 ∧ first 0x0400010200000003 = State.reset.setStatus 8#4 := by
  decide
theorem test_error_scope : first 0x0702000000000002 = (State.reset.setStatus 8#4).setRspFifo [0#32, 0#32] := by decide
theorem test_no_error_tiny_velocity : (first 0x0100450001000000).status = 0#4 := by decide

/-! ## The host's side (R177, R600, R611) -/

theorem test_host_pop : after (step ((State.reset.setRspFifo [7#32, 8#32]).setPort ⟨[.pop], [6#32]⟩)) =
    (State.reset.setRspFifo [8#32]).setPort ⟨[], [6#32, 7#32]⟩ := by decide
theorem test_host_push : (after (step (State.reset.setPort ⟨[.push 5#64], []⟩))).cmdFifo = [5#64] := by decide
theorem test_host_reset : after (step ((sixHeld.setStatus 3#4).setPort ⟨[.reset], []⟩)) = State.reset := by decide

/-! ## Witnesses: states and operands that meet the hypotheses of each statement -/

theorem roomOnly_length (n : Nat) (h : n ≤ 2) : (roomOnly n).rspFifo.length + n = Config.rspFifoDepth := by
  have : 2 ≤ Config.rspFifoDepth := Nat.le_add_left _ _
  simp [roomOnly]
  omega

theorem reset_room : RoomFor 0 State.reset ∧ RoomFor 1 State.reset ∧ RoomFor 2 State.reset := by
  have : 2 ≤ Config.rspFifoDepth := Nat.le_add_left _ _
  refine ⟨?_, ?_, ?_⟩ <;> simp [RoomFor, State.reset] <;> omega

theorem witness_EncodeOfDecode : decode 0x0701000000000008#64 = .instr (.renderScope 1#8 8#32) := by decide

theorem witness_StepRunsTheDecodedCommand :
    let s := (State.reset.setCmdFifo [0x030000000000AC44#64]).setPort ⟨[.pass, .pop], []⟩
    hostMove s = none ∧ s.inFlight = none ∧ s.cmdFifo = 0x030000000000AC44#64 :: [] ∧
      decode 0x030000000000AC44#64 = .instr (.render 44100#32) := by decide +kernel

theorem witness_BlockWaitsAndRests_waits :
    let s := (roomOnly 0).setInFlight (some ⟨[5#32], .nothing⟩)
    s.inFlight = some ⟨[5#32], .nothing⟩ ∧ [5#32] ≠ [] ∧ s.rspFifo.length = Config.rspFifoDepth :=
  ⟨rfl, by decide, roomOnly_length 0 (by decide)⟩

theorem witness_BlockWaitsAndRests_delivers :
    let s := State.reset.setInFlight (some ⟨[5#32], .advanceRead⟩)
    s.inFlight = some ⟨[5#32], .advanceRead⟩ ∧ hostMove s = none ∧ [5#32] ≠ [] ∧ RoomFor [5#32].length s :=
  ⟨rfl, rfl, by decide, reset_room.2.1⟩

theorem witness_BlockWaitsAndRests_partly :
    let s := (roomOnly 1).setInFlight (some ⟨[5#32, 6#32], .advanceRead⟩)
    s.inFlight = some ⟨[5#32, 6#32], .advanceRead⟩ ∧ [5#32, 6#32] ≠ [] ∧ RoomFor 1 s ∧
      ¬ RoomFor [5#32, 6#32].length s := by
  have := roomOnly_length 1 (by decide)
  refine ⟨rfl, by decide, ?_, ?_⟩ <;> simp [RoomFor] <;> omega

theorem witness_BlockWaitsAndRests_fills :
    let s := (roomOnly 1).setInFlight (some ⟨[5#32, 6#32], .nothing⟩)
    s.inFlight = some ⟨[5#32, 6#32], .nothing⟩ ∧ RoomFor 0 s := by
  have := roomOnly_length 1 (by decide)
  exact ⟨rfl, by simp [RoomFor]; omega⟩

theorem witness_BlockWaitsAndRests_push :
    let s := State.reset.setPort ⟨[.push 5#64, .pop], []⟩
    s.port.agenda = .push 5#64 :: [.pop] ∧ s.cmdFifo.length < Config.cmdFifoDepth := ⟨rfl, Nat.succ_pos _⟩

theorem witness_BlockWaitsAndRests_pushWaits :
    let s := (State.reset.setCmdFifo (List.replicate Config.cmdFifoDepth 0#64)).setPort ⟨[.push 5#64], []⟩
    s.port.agenda = .push 5#64 :: [] ∧ Config.cmdFifoDepth ≤ s.cmdFifo.length := ⟨rfl, by simp⟩

theorem witness_BlockWaitsAndRests_pop :
    let s := (State.reset.setRspFifo [7#32, 8#32]).setPort ⟨[.pop, .pass], [6#32]⟩
    s.port.agenda = .pop :: [.pass] ∧ s.rspFifo = 7#32 :: [8#32] := by decide

theorem witness_BlockWaitsAndRests_popWaits :
    let s := State.reset.setPort ⟨[.pop], []⟩
    s.port.agenda = .pop :: [] ∧ s.rspFifo = [] := by decide

theorem witness_BlockWaitsAndRests_pass : (State.reset.setPort ⟨[.pass], []⟩).port.agenda = .pass :: [] ∧
    State.reset.port.agenda = [] := by decide

theorem witness_BlockWaitsAndRests_rests : State.reset.inFlight = none ∧ State.reset.cmdFifo = [] := by decide

theorem witness_ReservedOpcodeSetsEOpcode :
    let s := State.reset.setCmdFifo [0x08FFFFFFFFFFFFFF#64, 0#64]
    s.inFlight = none ∧ s.cmdFifo = 0x08FFFFFFFFFFFFFF#64 :: [0#64] ∧
      0x08 ≤ (opByte 0x08FFFFFFFFFFFFFF#64).toNat := by decide +kernel

theorem witness_IllegalValuesSetEValue_key : 127 < (128#8).toNat := by decide
theorem witness_IllegalValuesSetEValue_osc : 1 < (2#8).toNat ∧ RoomFor (2#32).toNat State.reset :=
  ⟨by decide, reset_room.2.2⟩
theorem witness_IllegalValuesSetEValue_cfg : regOfAddr 0x0000#16 = some (.global .mode) ∧ access (.global .mode) = .rw ∧
    legal (.global .mode) 3#32 = false := by decide
theorem witness_IllegalValuesSetEValue_any : Reg.global .gainL ≠ .global .mode ∧ Reg.global .gainL ≠ .global .channel ∧
    (∀ o, Reg.global .gainL ≠ .osc o .combine) ∧
    (∀ o d, Reg.global .gainL ≠ .lfo o d .shape ∧ Reg.global .gainL ≠ .lfo o d .flags) := by
  refine ⟨by decide, by decide, ?_, ?_⟩ <;> simp

theorem witness_BadAddressesSetEAddress_unmapped : regOfAddr 0x000B#16 = none ∧ regOfAddr 0x1180#16 = none ∧
    RoomFor 1 State.reset := ⟨by decide, by decide, reset_room.2.1⟩
theorem witness_BadAddressesSetEAddress_readOnly : regOfAddr 0x0801#16 = some (.stat .id) ∧
    access (.stat .id) = .ro ∧ regOfAddr 0x115F#16 = some (.voice 5 (.lfoPh 1 5)) ∧
    access (.voice 5 (.lfoPh 1 5)) = .ro := by decide

theorem witness_ErrorsAreEffectFree : wordError 0xFF00000000000000#64 = some .opcode ∧
    wordError 0x0601000000000000#64 = some .reserved ∧ wordError 0x0500200000000000#64 = some .address ∧
    wordError 0x0702000000000003#64 = some .value := by decide

theorem witness_PassingWordsRaiseNothing : wordError 0x0400080000000001#64 = none ∧
    wordError 0x030000000000AC44#64 = none ∧
    ∀ x, decode 0x030000000000AC44#64 ≠ .instr (.cfgWrite 0x0800#16 x) := by
  refine ⟨by decide, by decide, fun x => ?_⟩
  rw [test_decode_render]
  simp

theorem witness_CfgWriteSetsItsRegisterAlone : regOfAddr 0x01E6#16 = some (.lfo 1 5 .flags) ∧
    access (.lfo 1 5 .flags) = .rw ∧ legal (.lfo 1 5 .flags) 3#32 = true := by decide

theorem witness_StatusWriteClearsOnes : opByte 0x0401080000000001#64 = 0x04#8 ∧
    fieldHi 0x0401080000000001#64 ≠ 0#8 := by decide

theorem witness_RegReadRespondsWithThePattern : regOfAddr 0x1044#16 = some (.voice 1 .flags) ∧ RoomFor 1 State.reset ∧
    ¬ RoomFor 1 (roomOnly 0) := by
  refine ⟨by decide, reset_room.2.1, ?_⟩
  have := roomOnly_length 0 (by decide)
  simp only [RoomFor]
  omega

theorem witness_AllocSearchesHolderDiedIdle : alloc 60#8 tailAndDead = some 0 ∧ alloc 61#8 tailAndDead = some 3 ∧
    alloc 61#8 State.reset = some 0 := by decide

theorem witness_NoteOnAssignsTheVoice : (127#8).toNat ≤ 127 ∧ 0#8 = sixHeld.cfg.channel ∧
    sixHeld.cfg.mode ≠ .portamento ∧ alloc 62#8 sixHeld = some 2 := by decide

theorem witness_NoteOnIsDroppedWhenAllAreHeld : (66#8).toNat ≤ 127 ∧ sixHeld.cfg.mode ≠ .portamento ∧
    ∀ u, (sixHeld.voice u).alive = true ∧ (sixHeld.voice u).died = false ∧ (sixHeld.voice u).key ≠ 66#8 := by decide

theorem witness_OtherChannelNotesAreIgnored : (127#8).toNat ≤ 127 ∧ 1#8 ≠ State.reset.cfg.channel := by decide

theorem witness_PortamentoNoteOnGlidesVoiceZero_glides : (72#8).toNat ≤ 127 ∧ 0#8 = porta.cfg.channel ∧
    porta.cfg.mode = .portamento ∧ (porta.voice 0).alive = true ∧ Fp.gt porta.cfg.portaTime Fp.pos0 = true := by decide
theorem witness_PortamentoNoteOnGlidesVoiceZero_jumps : ((porta.setVoice 0 (tail 60#8)).voice 0).alive = false ∧
    Fp.gt (inMode .portamento).cfg.portaTime Fp.pos0 = false := by decide

theorem witness_NoteOffReleasesTheVoice : (64#8).toNat ≤ 127 ∧ 0#8 = arp.cfg.channel ∧ arp.cfg.mode ≠ .portamento ∧
    matchOff 64#8 arp = some 2 := by decide

theorem witness_NoteOffMatchesTheLowestHeldVoice : (60#8).toNat ≤ 127 ∧
    ∀ u, ¬ ((tailAndDead.voice u).alive = true ∧ (tailAndDead.voice u).key = 60#8) := by decide

theorem witness_PortamentoNoteOffExaminesVoiceZero : (60#8).toNat ≤ 127 ∧ 0#8 = porta.cfg.channel ∧
    porta.cfg.mode = .portamento ∧ ((porta.voice 0).alive = true ∧ (porta.voice 0).key = 60#8) ∧
    ¬ ((porta.voice 0).alive = true ∧ (porta.voice 0).key = 61#8) := by decide

/-- A voice `n` samples old. -/
def aged (n : U32) (v : Voice) : Voice := { v with time := n }

theorem witness_EnvelopeEvaluatesByBranch_sustain : let c := envOf 0#32 0#32 Fp.one 0#32; let v := aged 1#32 (held 60#8)
    v.alive = true ∧ Fp.gt (Fp.sec v.time) (Fp.add c.amp.attack c.amp.decay) = true := by decide
theorem witness_EnvelopeEvaluatesByBranch_decay :
    let c := envOf Fp.c0_5 Fp.c0_5 Fp.c0_5 0#32; let v := aged 44100#32 (held 60#8)
    v.alive = true ∧ Fp.gt (Fp.sec v.time) (Fp.add c.amp.attack c.amp.decay) = false ∧
      Fp.gt (Fp.sec v.time) c.amp.attack = true ∧ Fp.gt c.amp.decay Fp.pos0 = true := by decide
theorem witness_EnvelopeEvaluatesByBranch_attack :
    let c := envOf Fp.c0_5 0#32 Fp.c0_5 0#32; let v := aged 22050#32 (held 60#8)
    v.alive = true ∧ Fp.gt (Fp.sec v.time) (Fp.add c.amp.attack c.amp.decay) = false ∧
      (Fp.gt (Fp.sec v.time) c.amp.attack = false ∨ Fp.gt c.amp.decay Fp.pos0 = false) ∧
      Fp.gt c.amp.attack Fp.pos0 = true := by decide
theorem witness_EnvelopeEvaluatesByBranch_zero :
    let c := envOf 0#32 0#32 Fp.c0_5 0#32; let v := held 60#8
    v.alive = true ∧ Fp.gt (Fp.sec v.time) (Fp.add c.amp.attack c.amp.decay) = false ∧
      (Fp.gt (Fp.sec v.time) c.amp.attack = false ∨ Fp.gt c.amp.decay Fp.pos0 = false) ∧
      Fp.gt c.amp.attack Fp.pos0 = false := by decide
theorem witness_EnvelopeEvaluatesByBranch_release :
    let c := envOf 0#32 0#32 Fp.c0_5 0x3DCCCCCD#32; let v := aged 22051#32 (tail 60#8)
    v.alive = false ∧ Fp.gt c.amp.release Fp.pos0 = true ∧
      Fp.lt (Fp.sec (v.time - v.relTime)) (Fp.mul c.amp.release Fp.five) = true := by decide
theorem witness_EnvelopeEvaluatesByBranch_expired :
    let c := envOf 0#32 0#32 Fp.c0_5 0x3DCCCCCD#32; let v := aged 22052#32 (tail 60#8)
    v.alive = false ∧ (Fp.gt c.amp.release Fp.pos0 = false ∨
      Fp.lt (Fp.sec (v.time - v.relTime)) (Fp.mul c.amp.release Fp.five) = false) := by decide

theorem witness_HeldEnvelopeCorners_zero : let c := envOf 0#32 0#32 Fp.c0_5 0#32
    (held 60#8).alive = true ∧ (envCfg c .amp).attack = 0#32 ∧ (envCfg c .amp).decay = 0#32 ∧
      (held 60#8).time = 0#32 ∧ (aged 1#32 (held 60#8)).time ≠ 0#32 ∧ (aged 1#32 (held 60#8)).alive = true := by decide
theorem witness_HeldEnvelopeCorners_decay : let c := envOf 0#32 1#32 Fp.c0_5 0#32
    (held 60#8).alive = true ∧ (envCfg c .amp).attack = 0#32 ∧ Fp.gt (envCfg c .amp).decay Fp.pos0 = true ∧
      (held 60#8).time = 0#32 := by decide
theorem witness_HeldEnvelopeCorners_attack : let c := envOf 1#32 0x80000000#32 Fp.c0_5 0#32
    let v := { held 60#8 with savedAmp := 0x7F7FFFFF#32 }
    v.alive = true ∧ Fp.gt (envCfg c .amp).attack Fp.pos0 = true ∧ Fp.lt (envCfg c .amp).decay Fp.pos0 = false ∧
      Fp.isFinite (savedValue v .amp) = true ∧ v.time = 0#32 := by decide

theorem witness_CaptureOfDiedVoiceIsZero : (dead 60#8).died = true ∧ (tail 60#8).died = false := by decide

theorem witness_RetriggerStartsFromTheCapturedValue :
    let s := sixHeld.setCfg (envOf Fp.c0_5 0#32 Fp.one Fp.one)
    (62#8).toNat ≤ 127 ∧ 0#8 = s.cfg.channel ∧ s.cfg.mode ≠ .portamento ∧ alloc 62#8 s = some 2 ∧
      Fp.gt s.cfg.amp.attack Fp.pos0 = true ∧ Fp.lt s.cfg.amp.decay Fp.pos0 = false ∧
      Fp.isFinite (envCapture s.cfg (s.voice 2) .amp) = true := by decide

theorem witness_RenderStoresOnlyItsFrames : Memory.wf [(44099, (⟨Fp.one, 0#32⟩ : Frame))] ∧
    exec (.render 0#32) (State.reset.setBuf [(44099, ⟨Fp.one, 0#32⟩)]) =
      .next (State.reset.setBuf [(44099, ⟨Fp.one, 0#32⟩)]) ∧ ∀ k < (0#32).toNat, 44099 ≠ (0 + k) % 44100 :=
  ⟨by decide, rfl, by decide⟩

/-- Arithmetic on a NaN is NaN, whatever the other operand. -/
theorem mul_nan_right (x : F32) {y : F32} (h : Fp.isNaN y = true) : Fp.mul x y = Fp.nan := by simp [Fp.mul, h]
theorem mul_nan_left (y : F32) : Fp.mul Fp.nan y = Fp.nan := by
  have : Fp.isNaN Fp.nan = true := by decide
  simp [Fp.mul, this]
theorem add_nan_right (x : F32) : Fp.add x Fp.nan = Fp.nan := by
  have : Fp.isNaN Fp.nan = true := by decide
  simp [Fp.add, this]

/-- Portamento mode with voice 0 held, sounding at sustain 1.0, its velocity a NaN. -/
def nanVoice : State :=
  ((inMode .portamento).setCfg { Cfg.reset with mode := .portamento, amp := ⟨0#32, 0#32, Fp.one, 0#32⟩ }).setVoice 0
    { held 60#8 with vel := Fp.nan }

theorem witness_RenderWritesTheClampedScaledSum : Memory.wf nanVoice.buf ∧
    Fp.isNaN (mixVoices fns (beginBlock nanVoice)).1 = true := by
  refine ⟨by decide, ?_⟩
  have hs : voiceSample fns nanVoice.cfg 0#32 (nanVoice.voice 0) Fp.pos0 nanVoice.prng =
      soundVoice fns nanVoice.cfg 0#32 (envEval nanVoice.cfg (ageVoice (nanVoice.voice 0)) .amp).1
        (ageVoice (nanVoice.voice 0)) Fp.pos0 nanVoice.prng := by
    rcases voiceSample_cases fns nanVoice.cfg 0#32 (nanVoice.voice 0) Fp.pos0 nanVoice.prng with
      ⟨h, -⟩ | ⟨-, h, -⟩ | ⟨-, -, -, h⟩
    · exact absurd h (by decide)
    · exact absurd h (by decide)
    · exact h
  have hm : (mixVoices fns (beginBlock nanVoice)).1 =
      (voiceSample fns nanVoice.cfg 0#32 (nanVoice.voice 0) Fp.pos0 nanVoice.prng).acc := by
    have hb : visited (beginBlock nanVoice) = [0] := by decide
    have hg : glideSample (beginBlock nanVoice) = nanVoice := by decide +kernel
    have hc : nanVoice.glide.cur = 0#32 := by decide
    simp only [mixVoices, hb, hg, List.foldl_cons, List.foldl_nil, renderSlot, hc]
  have hv : (ageVoice (nanVoice.voice 0)).vel = Fp.nan := by decide
  rw [hm, hs]
  simp only [soundVoice, hv]
  rw [mul_nan_right _ (y := Fp.nan) (by decide), mul_nan_left, add_nan_right]
  decide

theorem witness_RenderSplitsIntoBlocks : porta.cfg.mode ≠ .arpeggio ∧
    (0xFFFFFFFE#32).toNat + (1#32).toNat < 2 ^ 32 := by decide +kernel

theorem witness_RenderSplitsIntoBlocks_arpeggio : arp.cfg.mode = .arpeggio ∧
    (2#32).toNat + (3#32).toNat < 2 ^ 32 := by decide

theorem witness_RenderZeroOnlyMovesTheArpeggio : State.reset.cfg.mode ≠ .arpeggio ∧ arp.cfg.mode = .arpeggio := by decide

theorem witness_ArpeggioUpdateSelectsHeldVoices : (inMode .arpeggio).cfg.mode = .arpeggio ∧
    heldSlots (inMode .arpeggio) = [] ∧ arp.cfg.mode = .arpeggio ∧ heldSlots arp ≠ [] := by decide

theorem witness_ArpeggioIndexLaw : arp.cfg.mode = .arpeggio ∧ arp.arpIndex.val = 0 ∧ heldSlots arp ≠ [] := by decide

theorem witness_RenderSkipsDiedVoices : (tailAndDead.voice 3).died = true := by decide

theorem witness_RenderHoldsUnvisitedVoices : arp.cfg.mode = .arpeggio ∧ porta.cfg.mode = .portamento := by decide

/-- The three modes: a held and a released voice in Poly, the selected slot in Arpeggio, slot 0 in Portamento. -/
theorem witness_SampleAdvancesTimeAndMayKill : ((sixHeld.voice 2).died = false ∧ (sixHeld.voice 2).alive = true ∧
      VisitsSlot sixHeld sixHeld 2) ∧
    ((tailAndDead.voice 0).died = false ∧ (tailAndDead.voice 0).alive = false ∧ VisitsSlot tailAndDead tailAndDead 0) ∧
    ((arp.voice 0).died = false ∧ VisitsSlot arp (arpUpdate arp) 0) ∧
    ((porta.voice 0).died = false ∧ VisitsSlot porta porta 0) := by unfold VisitsSlot; decide

theorem witness_SilentVoiceIsSkipped : (tailAndDead.voice 0).died = false ∧ VisitsSlot tailAndDead tailAndDead 0 ∧
    Fp.eq (envEval tailAndDead.cfg (ageVoice (tailAndDead.voice 0)) .amp).1 Fp.pos0 = true := by
  unfold VisitsSlot; decide

/-- A canonical buffer in each mode; each of the three kinds of visit: sounding, silent, died. -/
theorem witness_SoundingVoiceMakesTheFrame : Memory.wf p1.buf ∧ p1.cfg.mode = .poly ∧ (p1.voice 0).died = false ∧
    Fp.eq (envEval p1.cfg (ageVoice (p1.voice 0)) .amp).1 Fp.pos0 = false ∧
    Fp.eq (envEval p1.cfg (ageVoice (p1.voice 1)) .amp).1 Fp.pos0 = true ∧
    (tailAndDead.voice 3).died = true ∧ tailAndDead.cfg.mode = .poly ∧
    Memory.wf arp.buf ∧ arp.cfg.mode = .arpeggio ∧ Memory.wf nanVoice.buf ∧ nanVoice.cfg.mode = .portamento := by decide

theorem witness_GlideStepsAndStopsAtTheTarget : Fp.gt 0x41C00000#32 Fp.pos0 = true ∧ Fp.lt 0xC2400000#32 Fp.pos0 = true ∧
    (Fp.gt Fp.nan Fp.pos0 = false ∧ Fp.lt Fp.nan Fp.pos0 = false) ∧
    (Fp.gt 0x80000000#32 Fp.pos0 = false ∧ Fp.lt 0x80000000#32 Fp.pos0 = false) := by decide

/-- An LFO configuration with a delay and the ZERO_CENTERED bit. -/
def lfoWith (delay : F32) (zc : Bool) : LfoCfg := { LfoCfg.reset with delay := delay, zeroCentered := zc, shape := .random }

theorem witness_LfoValueByBranch : (Fp.gt (Fp.sec 1#32) (lfoWith 0#32 false).delay = true ∧
      (lfoWith 0#32 false).zeroCentered = false ∧ (lfoWith 0#32 true).zeroCentered = true) ∧
    (Fp.gt (Fp.sec 22050#32) (lfoWith Fp.c0_5 true).delay = false ∧ Fp.gt (lfoWith Fp.c0_5 true).delay Fp.pos0 = true) ∧
    (Fp.gt 0#32 (lfoWith 0#32 false).delay = false ∧ Fp.gt (lfoWith 0#32 false).delay Fp.pos0 = false) := by decide

theorem witness_WaveformsStayInBand : Fp.lt 0#32 Fp.c0_25 = true ∧
    (Fp.lt Fp.c0_25 Fp.c0_25 = false ∧ Fp.lt Fp.c0_25 Fp.c0_75 = true) ∧
    (Fp.lt Fp.c0_75 Fp.c0_25 = false ∧ Fp.lt Fp.c0_75 Fp.c0_75 = false) ∧ Shape.saw ≠ .random ∧ inUnit 0#32 = true ∧ inUnit 0x3F7FFFFF#32 = true ∧
    inUnit Fp.one = false := by decide

theorem witness_OctaveShiftIsRepeatedScaling : 0 ≤ (20#32).toInt ∧ (0xFFFFFFFE#32).toInt ≤ 0 := by decide

theorem witness_CombineLawsJoinTheSum : ({ OscCfg.reset with combine := .mix } : OscCfg).combine = .mix ∧
    ({ OscCfg.reset with combine := .mul } : OscCfg).combine = .mul ∧
    ({ OscCfg.reset with combine := .ring } : OscCfg).combine = .ring := by decide

theorem witness_FilterHoldsAtCutoffZero_cutoff : Fp.isNaN 0xFFFFFFFF#32 = true ∧ Fp.lt 0x80000001#32 Fp.pos0 = true := by
  decide
theorem witness_FilterHoldsAtCutoffZero_pass : let k : FilterCoef := ⟨0x3F7F2E49#32, 0#32⟩
    let f : FilterState := ⟨Fp.one, 0x7F7FFFFF#32, 1#32, 0x80000000#32, 0#32, Fp.c0_5⟩
    k.tune = 0#32 ∧ Fp.isFinite f.fs0 = true ∧ Fp.isFinite f.fs1 = true ∧ Fp.isFinite f.fs2 = true ∧
      Fp.isFinite f.fs3 = true ∧
      Fp.isNaN (Fp.sub 0x7F800000#32 (Fp.mul (Fp.mul (Fp.mul Fp.four Fp.one) f.fout) k.acr)) = false := by decide

theorem witness_FilterNaNIsSticky : Fp.isNaN 0x7F800001#32 = true ∧ Fp.isNaN 0x7F800000#32 = false := by decide

theorem witness_NaNResultsAreCanonical : Fp.isNaN (Fp.add 0x7F800000#32 0xFF800000#32) = true ∧
    Fp.isNaN (Fp.sub 0x7F800000#32 0x7F800000#32) = true ∧ Fp.isNaN (Fp.mul 0#32 0x7F800000#32) = true ∧
    Fp.isNaN (Fp.div 0#32 0#32) = true ∧ Fp.isNaN (Fp.floor 0x7F800001#32) = true ∧
    Fp.isNaN (Fp.ceil 0xFFFFFFFF#32) = true ∧ Fp.isNaN (Fp.neg 0xFF800001#32) = true ∧
    Fp.isNaN (fns.pow 0x7F800001#32 Fp.one) = true ∧ Fp.isNaN (fns.exp 0x7F800001#32) = true ∧
    Fp.isNaN (fns.tanh 0x7F800001#32) = true ∧ Fp.isNaN (fns.sin 0x7F800000#32) = true := by decide

theorem witness_ClampStaysBetweenItsBounds : Fp.isNaN 0x7F800001#32 = true ∧ Fp.le Fp.negOne Fp.negOne = true ∧
    Fp.ge Fp.one Fp.negOne = true ∧ Fp.le Fp.one Fp.one = true := by decide

theorem witness_WrapIsTheFractionalPart : Fp.isFinite 0x7F7FFFFF#32 = true ∧ Fp.sign 0x7F7FFFFF#32 = false := by decide

theorem witness_OpenFunctionsMeetTheirConstraints : Fp.isZero 0x80000000#32 = true ∧ Fp.gt 1#32 Fp.pos0 = true ∧
    Fp.lt 0x80000001#32 Fp.pos0 = true ∧ Fp.isFinite Fp.negOne = true ∧ Fp.lt Fp.negOne Fp.pos0 = true ∧
    Fp.isFinite Fp.c0_5 = true ∧ Fp.val Fp.c0_5 % 2 ^ 149 ≠ 0 ∧ Fp.isNaN Fp.nan = true ∧ Fp.isZero Fp.one = false ∧
    Fp.nan ≠ Fp.one ∧ Fp.isInf 0xFF800000#32 = true ∧ Fp.isNaN Fp.two = false := by decide

theorem witness_PopOutputRespondsAndAdvances : RoomFor 2 State.reset ∧
    (RoomFor 1 (roomOnly 1) ∧ ¬ RoomFor 2 (roomOnly 1)) ∧ ¬ RoomFor 1 (roomOnly 0) := by
  have h0 := roomOnly_length 0 (by decide)
  have h1 := roomOnly_length 1 (by decide)
  simp only [RoomFor]
  exact ⟨reset_room.2.2, by omega, by omega⟩

theorem witness_PopOutputStaysInItsRange : RoomFor 2 (roomOnly 2) := Nat.le_of_eq (roomOnly_length 2 (by decide))

theorem witness_RenderScopePreviewsWithoutState : (1#8).toNat = (1 : OscIx).val ∧ RoomFor (2#32).toNat State.reset ∧
    RoomFor (0#32).toNat State.reset := ⟨by decide, reset_room.2.2, reset_room.1⟩

theorem witness_ResetLeavesTheListedValues : (sixHeld.setPort ⟨[.reset, .pop], [1#32]⟩).port.agenda = .reset :: [.pop] := by
  decide

/-- The invariant holds of a state with held, released and died voices and a command to run. -/
theorem witness_StepKeepsTheInvariant : (tailAndDead.setCmdFifo [0#64]).Inv where
  voices := fun v => by
    have hc : ∀ x : Voice, x.osc = Voice.reset.osc → ∀ o : OscIx, (x.osc[o]).cursorsInUnit := by
      intro x hx
      rw [hx]
      unfold OscState.cursorsInUnit
      decide
    fin_cases v <;> exact ⟨by decide, by decide, by decide, by decide, hc _ (by decide)⟩
  buf := by decide
  cmdFits := Nat.le_add_left _ _
  rspFits := Nat.zero_le _
  waits := fun p h => by simp [tailAndDead, State.reset, State.setVoice, State.setCmdFifo] at h

/-- Six held voices with six keys. -/
theorem witness_OneVoicePerKeyIsKept : OneVoicePerKey sixHeld ∧
    ¬ (sixHeld.cfg.mode = .portamento ∧ ∃ ch key vel v, (Instr.noteOn 0#8 62#8 Fp.one) = .noteOn ch key vel ∧ v ≠ 0 ∧
      holdsKey (sixHeld.voice v) key = true) := by
  refine ⟨?_, fun h => absurd h.1 (by decide)⟩
  have hk : ∀ u v : Slot, (sixHeld.voice u).key = (sixHeld.voice v).key → u = v := by decide
  intro key u v _ hu hv
  simp only [holdsKey, Bool.and_eq_true, decide_eq_true_eq] at hu hv
  exact hk u v (hu.1.trans hv.1.symm)

end Sys2Proof.Tests
end

/-! # The state's invariants, the block's rests and the packed registers (10_state.md)

Proofs of the obligations on the state: what each command, each host move and each step can do to the state is said
once, and the invariants are read off. -/

section

namespace Sys2Proof.Machine

/-! ## Packed registers -/

/-- Two flags packed in bits 0 and 1 read as their weighted sum. -/
theorem toNat_flagPair (a b : Bool) : (flagBit a 0 ||| flagBit b 1).toNat = a.toNat + 2 * b.toNat := by
  cases a <;> cases b <;> rfl

/-- Settles O16: constants by definition, narrow fields by widening, flag pairs by their two bits. -/
theorem packedRegistersReadTheirFields : Obligations.PackedRegistersReadTheirFields := by
  intro s
  refine ⟨rfl, rfl, BitVec.toNat_setWidth_of_le (by decide), fun v => ⟨?_, ?_⟩, fun o d => ?_⟩
  · exact BitVec.toNat_setWidth_of_le (by decide)
  · exact toNat_flagPair (s.voice v).alive (s.voice v).died
  · exact toNat_flagPair _ _

/-! ## What the operations on responses write -/

/-- After its last response a command writes the read cursor or nothing (R504). -/
theorem finish_eq (a : AfterRsp) (s : State) :
    finish a s = s.setReadCursor (if a = .advanceRead then nextCursor s.readCursor else s.readCursor) := by
  cases a <;> rfl

/-- A response writes the response FIFO, the command in flight and the read cursor only. -/
theorem respond_writes (ws : List U32) (a : AfterRsp) (s : State) :
    ∃ q p c, respond ws a s = ((s.setRspFifo q).setInFlight p).setReadCursor c := by
  rcases respond_cases ws a s with ⟨-, h⟩ | ⟨-, h⟩
  · exact ⟨_, _, _, h.trans (finish_eq a _)⟩
  · exact ⟨(deliver ws s.rspFifo).1, some ⟨(deliver ws s.rspFifo).2, a⟩, s.readCursor, h⟩

/-- Going on with a command in flight is responding with the words it has left. -/
theorem drain_eq_respond {s : State} {p : InFlight} (h : s.inFlight = some p) :
    drain s = respond p.words p.after s := by
  have hs : s.setInFlight (some ⟨p.words, p.after⟩) = s := by
    rw [State.setInFlight, ← h]
  rw [respond, hs]

/-- Only READ_CURSOR reads the read cursor. -/
theorem readReg_setReadCursor (s : State) (c : Cursor) {r : Reg} (h : r ≠ .stat .readCursor) :
    readReg r (s.setReadCursor c) = readReg r s := by
  cases r with
  | stat r =>
    cases r with
    | readCursor => exact absurd rfl h
    | _ => rfl
  | _ => rfl

@[simp] theorem readReg_setRspFifo (s : State) (q : List U32) (r : Reg) :
    readReg r (s.setRspFifo q) = readReg r s := rfl

@[simp] theorem readReg_setInFlight (s : State) (p : Option InFlight) (r : Reg) :
    readReg r (s.setInFlight p) = readReg r s := rfl

/-- A response changes no register but READ_CURSOR, no frame, and neither the command FIFO nor the host's side. -/
theorem respond_sameBut (ws : List U32) (a : AfterRsp) (s : State) :
    SameRegsBut (· = .stat .readCursor) s (respond ws a s) ∧ SameFrames s (respond ws a s) ∧
      SamePorts s (respond ws a s) := by
  obtain ⟨q, p, c, h⟩ := respond_writes ws a s
  rw [h]
  refine ⟨fun r hr => ?_, fun _ => rfl, rfl, rfl⟩
  rw [readReg_setReadCursor _ c hr, readReg_setInFlight, readReg_setRspFifo]

/-- What a response leaves in the FIFO is what `deliver` put there. -/
theorem respond_rspFifo (ws : List U32) (a : AfterRsp) (s : State) :
    (respond ws a s).rspFifo = (deliver ws s.rspFifo).1 := by
  rcases respond_cases ws a s with ⟨-, h⟩ | ⟨-, h⟩
  · rw [h, finish_eq]
    rfl
  · rw [h]
    rfl

/-- What waits after a response is what `deliver` had no room for. -/
theorem respond_waitingWords (ws : List U32) (a : AfterRsp) (s : State) :
    waitingWords (respond ws a s) = (deliver ws s.rspFifo).2 := by
  rcases respond_cases ws a s with ⟨hd, h⟩ | ⟨-, h⟩
  · rw [h, finish_eq, hd]
    rfl
  · rw [h]
    rfl

/-- With room for one word a response that has words delivers at least one. -/
theorem deliver_progress {ws q : List U32} (hq : q.length + 1 ≤ Config.rspFifoDepth) (hw : ws ≠ []) :
    q.length < (deliver ws q).1.length := by
  obtain ⟨w, ws, rfl⟩ := List.exists_cons_of_ne_nil hw
  have hroom : q.length < Config.rspFifoDepth := hq
  rw [deliver, if_pos hroom]
  simpa using deliver_grows ws (q ++ [w])

/-- A response waits just with the words that had no room, and then keeps the read cursor. -/
theorem respond_waits {ws : List U32} (a : AfterRsp) {s : State} (h : ¬ RoomFor ws.length s) (hw : ws ≠ []) :
    (deliver ws s.rspFifo).2 ≠ [] ∧
      respond ws a s = (s.setRspFifo (deliver ws s.rspFifo).1).setInFlight (some ⟨(deliver ws s.rspFifo).2, a⟩) := by
  have hleft := deliver_left (Nat.lt_of_not_le h) hw
  rcases respond_cases ws a s with ⟨hd, -⟩ | hwait
  · exact absurd hd hleft
  · exact hwait

/-- A full FIFO takes no word. -/
theorem deliver_full {ws q : List U32} (hq : q.length = Config.rspFifoDepth) : deliver ws q = (q, ws) := by
  cases ws with
  | nil => rfl
  | cons w ws => rw [deliver, if_neg (by omega)]

/-! ## What a move of the host, and of the block, can be -/

/-- While a command is in flight the block goes on responding. -/
theorem blockMove_inFlight {s : State} {p : InFlight} (h : s.inFlight = some p) :
    blockMove s = .next (respond p.words p.after s) := by
  rw [← drain_eq_respond h]
  simp only [blockMove, h]

/-- With no command in flight and none in the FIFO the block rests (R621). -/
theorem blockMove_idle {s : State} (hf : s.inFlight = none) (hc : s.cmdFifo = []) : blockMove s = .next s := by
  simp only [blockMove, hf, fetch, hc]

/-- With no command in flight the block runs the word at the head of the command FIFO (R170). -/
theorem blockMove_runs {s : State} {w : Cmd} {rest : List Cmd} (hf : s.inFlight = none) (hc : s.cmdFifo = w :: rest) :
    blockMove s = runWord w (s.setCmdFifo rest) := by
  simp only [blockMove, hf, fetch, hc]

/-- A step in which the host has no move is the block's. -/
theorem step_of_hostMove_none {s : State} (h : hostMove s = none) : step s = blockMove (spendPass s) := by
  simp only [step, h]

/-- A step in which the host has a move is that move. -/
theorem step_of_hostMove_some {s t : State} (h : hostMove s = some t) : step s = .next t := by
  simp only [step, h]

/-- The three moves of the host: a push with room, a pop of a word that is there, a reset. -/
theorem hostMove_cases {s t : State} (h : hostMove s = some t) :
    (∃ cmd rest, s.cmdFifo.length < Config.cmdFifoDepth ∧
      t = (s.setCmdFifo (s.cmdFifo ++ [cmd])).setPort ⟨rest, s.port.received⟩) ∨
    (∃ w ws rest, s.rspFifo = w :: ws ∧ t = (s.setRspFifo ws).setPort ⟨rest, s.port.received ++ [w]⟩) ∨
    (∃ rest, t = assertReset rest s) := by
  unfold hostMove at h
  split at h
  case h_1 cmd rest _ =>
    split at h
    case isTrue hlt => exact .inl ⟨cmd, rest, hlt, (Option.some.inj h).symm⟩
    case isFalse => cases h
  case h_2 rest _ =>
    split at h
    case h_1 => cases h
    case h_2 w ws hq => exact .inr (.inl ⟨w, ws, rest, hq, (Option.some.inj h).symm⟩)
  case h_3 rest _ => exact .inr (.inr ⟨rest, (Option.some.inj h).symm⟩)
  case h_4 => cases h
  case h_5 => cases h

/-- Spending a `pass` writes the host's side only. -/
theorem spendPass_writes (s : State) : ∃ p, spendPass s = s.setPort p := by
  unfold spendPass
  split
  · exact ⟨_, rfl⟩
  all_goals exact ⟨s.port, rfl⟩

/-! ## A command in flight, a full FIFO, an idle block, the host's moves (O6) -/

/-- A command in flight delivers what fits, completes when all of it does, and changes nothing else (R14, R611). -/
theorem blockMove_delivers {s : State} {p : InFlight} (hp : s.inFlight = some p) : ∃ t, blockMove s = .next t ∧
    t.rspFifo ++ waitingWords t = s.rspFifo ++ p.words ∧
    (RoomFor 1 s → p.words ≠ [] → s.rspFifo.length < t.rspFifo.length) ∧
    (RoomFor p.words.length s → t.inFlight = none ∧
      t.readCursor.val = if p.after = .advanceRead then (s.readCursor.val + 1) % 44100 else s.readCursor.val) ∧
    (¬ RoomFor p.words.length s → p.words ≠ [] → ∃ ws, ws ≠ [] ∧ t.inFlight = some ⟨ws, p.after⟩ ∧
      t.readCursor = s.readCursor ∧ (RoomFor 0 s → t.rspFifo.length = Config.rspFifoDepth)) ∧
    SameRegsBut (· = .stat .readCursor) s t ∧ SameFrames s t ∧ SamePorts s t := by
  refine ⟨_, blockMove_inFlight hp, ?words, ?progress, ?complete, ?waits, respond_sameBut _ _ s⟩
  case words => rw [respond_rspFifo, respond_waitingWords, deliver_append]
  case progress =>
    intro hroom hw
    rw [respond_rspFifo]
    exact deliver_progress hroom hw
  case complete =>
    intro hroom
    rw [respond_room p.after hroom, finish_eq]
    refine ⟨rfl, ?_⟩
    rw [State.setReadCursor_readCursor, apply_ite Fin.val]
    rfl
  case waits =>
    intro hroom hw
    obtain ⟨hleft, h⟩ := respond_waits p.after hroom hw
    rw [h]
    exact ⟨_, hleft, rfl, rfl, fun h0 => deliver_waits h0 hleft⟩

/-- A command in flight with words to give waits at a full FIFO: nothing changes (R611). -/
theorem blockMove_full {s : State} {p : InFlight} (hp : s.inFlight = some p) (hw : p.words ≠ [])
    (hfull : s.rspFifo.length = Config.rspFifoDepth) : blockMove s = .next s := by
  have hroom : ¬ RoomFor p.words.length s := by
    have := List.length_pos_iff.mpr hw
    unfold RoomFor
    omega
  have hsame : (s.setRspFifo s.rspFifo).setInFlight (some ⟨p.words, p.after⟩) = s := by
    rw [State.setInFlight, ← hp]
    rfl
  rw [blockMove_inFlight hp, (respond_waits p.after hroom hw).2, deliver_full hfull, hsame]

/-- A push with room is the step; without room the step is the block's (R90, R170). -/
theorem step_push {s : State} {w : Cmd} {rest : List PortEvent} (ha : s.port.agenda = .push w :: rest) :
    (s.cmdFifo.length < Config.cmdFifoDepth →
      step s = .next ((s.setCmdFifo (s.cmdFifo ++ [w])).setPort ⟨rest, s.port.received⟩)) ∧
    (Config.cmdFifoDepth ≤ s.cmdFifo.length → step s = blockMove s) := by
  refine ⟨fun hlt => step_of_hostMove_some ?_, fun hge => ?_⟩
  · simp only [hostMove, ha, if_pos hlt]
  · have hnone : hostMove s = none := by simp only [hostMove, ha, if_neg (Nat.not_lt.mpr hge)]
    rw [step_of_hostMove_none hnone]
    simp only [spendPass, ha]

/-- A pop of a word that is there is the step; at an empty response FIFO the step is the block's (R177). -/
theorem step_pop {s : State} {rest : List PortEvent} (ha : s.port.agenda = .pop :: rest) :
    (∀ w ws, s.rspFifo = w :: ws →
      step s = .next ((s.setRspFifo ws).setPort ⟨rest, s.port.received ++ [w]⟩)) ∧
    (s.rspFifo = [] → step s = blockMove s) := by
  refine ⟨fun w ws hq => step_of_hostMove_some ?_, fun hq => ?_⟩
  · simp only [hostMove, ha, hq]
  · have hnone : hostMove s = none := by simp only [hostMove, ha, hq]
    rw [step_of_hostMove_none hnone]
    simp only [spendPass, ha]

/-- A `pass` is spent and the step is the block's. -/
theorem step_pass {s : State} {rest : List PortEvent} (ha : s.port.agenda = .pass :: rest) :
    step s = blockMove (s.setPort ⟨rest, s.port.received⟩) := by
  have hnone : hostMove s = none := by simp only [hostMove, ha]
  rw [step_of_hostMove_none hnone]
  simp only [spendPass, ha]

/-- With an empty agenda the step is the block's. -/
theorem step_noAgenda {s : State} (ha : s.port.agenda = []) : step s = blockMove s := by
  have hnone : hostMove s = none := by simp only [hostMove, ha]
  rw [step_of_hostMove_none hnone]
  simp only [spendPass, ha]

/-- Settles O6: delivery by `blockMove_delivers`, the waiting and the idle block, and the host's moves one by one. -/
theorem blockWaitsAndRests : Obligations.BlockWaitsAndRests :=
  ⟨fun _ _ _ hhost => step_of_hostMove_none hhost,
    fun _ _ hp => blockMove_delivers hp,
    fun _ _ hp hw hfull => blockMove_full hp hw hfull,
    fun _ hf hc => blockMove_idle hf hc,
    fun _ _ _ ha => step_push ha,
    fun _ _ ha => step_pop ha,
    fun _ _ ha => step_pass ha,
    fun _ ha => step_noAgenda ha⟩

/-! ## What a command can do, said once -/

/-- A register write writes the configuration, the generator and STATUS only (R501, R503). -/
theorem writeReg_writes (r : Reg) (w : U32) (s : State) :
    ∃ c g st, writeReg r w s = ((s.setCfg c).setPrng g).setStatus st := by
  cases r with
  | global g =>
    cases g with
    | mode =>
      simp only [writeReg, writeGlobal]
      split
      · exact ⟨_, s.prng, s.status, rfl⟩
      · exact ⟨s.cfg, s.prng, s.status, rfl⟩
    | prngA => exact ⟨s.cfg, { s.prng with a := w }, s.status, rfl⟩
    | prngB => exact ⟨s.cfg, { s.prng with b := w }, s.status, rfl⟩
    | _ => exact ⟨_, s.prng, s.status, rfl⟩
  | env e f => cases e <;> exact ⟨_, s.prng, s.status, rfl⟩
  | osc o f => exact ⟨_, s.prng, s.status, rfl⟩
  | lfo o d f => exact ⟨_, s.prng, s.status, rfl⟩
  | stat r =>
    cases r with
    | status => exact ⟨s.cfg, s.prng, _, rfl⟩
    | _ => exact ⟨s.cfg, s.prng, s.status, rfl⟩
  | voice v r => exact ⟨s.cfg, s.prng, s.status, rfl⟩

/-- What a command other than a note-on, or a rejected word, can make of the state `s`: STATUS and a response; the
configuration, the generator and STATUS; a note-off; or a rendered block. -/
inductive Effect (s : State) : State → Prop where
  | responds (ws : List U32) (a : AfterRsp) (st : BitVec 4) : Effect s (respond ws a (s.setStatus st))
  | configures (c : Cfg) (g : Prng) (st : BitVec 4) : Effect s (((s.setCfg c).setPrng g).setStatus st)
  | notesOff (ch key : BitVec 8) : Effect s (noteOff ch key s)
  | renders (n : Nat) : Effect s (renderSamples fns n (beginBlock s))

/-- A raised error sets STATUS and responds. -/
theorem raiseCmdError_effect (e : CmdError) (n : Nat) (s : State) : Effect s (raiseCmdError e n s) :=
  .responds _ _ _

/-- Responding alone keeps STATUS. -/
theorem respond_effect (ws : List U32) (a : AfterRsp) (s : State) : Effect s (respond ws a s) :=
  .responds ws a s.status

theorem execNop_effect (s : State) : ∃ t, exec .nop s = .next t ∧ Effect s t :=
  ⟨s, rfl, .configures s.cfg s.prng s.status⟩

theorem execCfgWrite_effect (addr : BitVec 16) (data : U32) (s : State) :
    ∃ t, exec (.cfgWrite addr data) s = .next t ∧ Effect s t := by
  simp only [exec, execCfgWrite]
  split
  · exact ⟨_, rfl, raiseCmdError_effect _ _ s⟩
  · split
    · exact ⟨_, rfl, raiseCmdError_effect _ _ s⟩
    · split
      · rename_i r _ _ _
        obtain ⟨c, g, st, h⟩ := writeReg_writes r data s
        exact ⟨_, congrArg _ h, .configures c g st⟩
      · exact ⟨_, rfl, raiseCmdError_effect _ _ s⟩

theorem execRegRead_effect (addr : BitVec 16) (s : State) : ∃ t, exec (.regRead addr) s = .next t ∧ Effect s t := by
  simp only [exec, execRegRead]
  split
  · exact ⟨_, rfl, raiseCmdError_effect _ _ s⟩
  · exact ⟨_, rfl, respond_effect _ _ s⟩

theorem execRenderScope_effect (osc : BitVec 8) (count : U32) (s : State) :
    ∃ t, exec (.renderScope osc count) s = .next t ∧ Effect s t := by
  simp only [exec, execRenderScope]
  split
  · exact ⟨_, rfl, raiseCmdError_effect _ _ s⟩
  · exact ⟨_, rfl, respond_effect _ _ s⟩

/-- A NOTE_ON with a legal key is the note event, with any other an error (R430, R553). -/
theorem exec_noteOn_eq (ch key : BitVec 8) (vel : F32) (s : State) : exec (.noteOn ch key vel) s =
    .next (if key.toNat ≤ 127 then noteOn ch key vel s else raiseCmdError .value 0 s) := by
  by_cases h : key.toNat ≤ 127 <;> simp [exec, execNoteOn, keyLegal, h]

/-- A NOTE_OFF with a legal key is the note event, with any other an error (R440, R553). -/
theorem exec_noteOff_eq (ch key : BitVec 8) (s : State) : exec (.noteOff ch key) s =
    .next (if key.toNat ≤ 127 then noteOff ch key s else raiseCmdError .value 0 s) := by
  by_cases h : key.toNat ≤ 127 <;> simp [exec, execNoteOff, keyLegal, h]

/-- Every command answers: a NOTE_ON with a legal key by the note event, any other with one of the effects. -/
theorem exec_cases (i : Instr) (s : State) :
    (∃ ch key vel, i = .noteOn ch key vel ∧ key.toNat ≤ 127 ∧ exec i s = .next (noteOn ch key vel s)) ∨
    ∃ t, exec i s = .next t ∧ Effect s t := by
  cases i with
  | nop => exact .inr (execNop_effect s)
  | noteOn ch key vel =>
    rw [exec_noteOn_eq]
    split
    case isTrue h => exact .inl ⟨ch, key, vel, rfl, h, rfl⟩
    case isFalse => exact .inr ⟨_, rfl, raiseCmdError_effect _ _ s⟩
  | noteOff ch key =>
    rw [exec_noteOff_eq]
    split
    case isTrue => exact .inr ⟨_, rfl, .notesOff ch key⟩
    case isFalse => exact .inr ⟨_, rfl, raiseCmdError_effect _ _ s⟩
  | render count => exact .inr ⟨_, rfl, .renders count.toNat⟩
  | cfgWrite addr data => exact .inr (execCfgWrite_effect addr data s)
  | regRead addr => exact .inr (execRegRead_effect addr s)
  | popOutput => exact .inr ⟨_, rfl, respond_effect _ _ s⟩
  | renderScope osc count => exact .inr (execRenderScope_effect osc count s)

/-- Every command word answers: it is a command, or an error. -/
theorem runWord_cases (w : Cmd) (s : State) :
    (∃ i, runWord w s = exec i s) ∨ ∃ e n, runWord w s = .next (raiseCmdError e n s) := by
  unfold runWord
  split
  · exact .inl ⟨_, rfl⟩
  · exact .inr ⟨_, _, rfl⟩
  · exact .inr ⟨_, _, rfl⟩

/-! ## What a note event can do -/

/-- In Poly and Arpeggio mode a NOTE_ON on the block's channel assigns the voice the search finds, if any (R430). -/
theorem noteOn_pool {ch key : BitVec 8} {vel : F32} {s : State} (hch : ch = s.cfg.channel)
    (hm : s.cfg.mode ≠ .portamento) :
    noteOn ch key vel s = ((alloc key s).map fun v => assign v key vel s).getD s := by
  unfold noteOn
  rw [if_neg (not_not.mpr hch)]
  split
  · exact absurd ‹_› hm
  all_goals cases alloc key s <;> rfl

/-- A NOTE_ON changes nothing, or assigns voice 0 in Portamento mode, or the voice the search finds in another. -/
theorem noteOn_cases (ch key : BitVec 8) (vel : F32) (s : State) :
    noteOn ch key vel s = s ∨
    (s.cfg.mode = .portamento ∧ noteOn ch key vel s = assign 0 key vel (s.setGlide (portaGlide key s))) ∨
    (∃ v, alloc key s = some v ∧ noteOn ch key vel s = assign v key vel s) := by
  by_cases hch : ch = s.cfg.channel
  · by_cases hm : s.cfg.mode = .portamento
    · exact .inr (.inl ⟨hm, by simp [noteOn, hch, hm, portaNoteOn]⟩)
    · rw [noteOn_pool hch hm]
      cases ha : alloc key s with
      | none => exact .inl rfl
      | some v => exact .inr (.inr ⟨v, rfl, rfl⟩)
  · exact .inl (by simp [noteOn, hch])

/-- A NOTE_OFF changes nothing or releases a voice. -/
theorem noteOff_cases (ch key : BitVec 8) (s : State) : noteOff ch key s = s ∨ ∃ v, noteOff ch key s = release v s := by
  unfold noteOff
  split
  · exact .inl rfl
  · split
    · split
      · exact .inr ⟨0, rfl⟩
      · exact .inl rfl
    all_goals
      split
      · exact .inr ⟨_, rfl⟩
      · exact .inl rfl

/-! ## What RENDER leaves of the voices -/

/-- A property of every slot's voice holds after one voice is written, if it holds of the new one. -/
theorem setVoice_forall (Q : Slot → Voice → Prop) {s : State} {v : Slot} {x : Voice} (hx : Q v x)
    (h : ∀ u, Q u (s.voice u)) (u : Slot) : Q u ((s.setVoice v x).voice u) := by
  by_cases huv : u = v
  · subst huv
    rwa [State.setVoice_voice_same]
  · rw [State.setVoice_voice_other _ _ _ _ huv]
    exact h u

/-- The glide step of a sample writes the glide only. -/
theorem glideSample_writes (s : State) : ∃ g, glideSample s = s.setGlide g := by
  unfold glideSample
  split
  · exact ⟨_, rfl⟩
  · exact ⟨s.glide, rfl⟩
  · exact ⟨s.glide, rfl⟩

/-- The once-per-block step writes the arpeggio registers only. -/
theorem beginBlock_writes (s : State) : ∃ i v, beginBlock s = s.setArp i v := by
  unfold beginBlock
  split
  · unfold arpUpdate
    split
    · exact ⟨_, _, rfl⟩
    · exact ⟨_, _, rfl⟩
  · exact ⟨s.arpIndex, s.arpVoice, rfl⟩
  · exact ⟨s.arpIndex, s.arpVoice, rfl⟩

/-- Rendering keeps every property of the slots' voices that a voice sample keeps. -/
theorem renderSamples_voices (F : Config.Fns) (Q : Slot → Voice → Prop)
    (sample : ∀ v x c gc acc g, Q v x → Q v (voiceSample F c gc x acc g).voice) (n : Nat) (s : State)
    (h : ∀ v, Q v (s.voice v)) : ∀ v, Q v ((renderSamples F n s).voice v) := by
  refine renderSamples_keeps F (fun t => ∀ v, Q v (t.voice v)) (fun t ht => ?_) n s h
  have hglide : ∀ v, Q v ((glideSample t).voice v) := by
    obtain ⟨g, hg⟩ := glideSample_writes t
    rw [hg]
    exact ht
  exact foldSlots_keeps F (fun t => ∀ v, Q v (t.voice v))
    (fun r v hr => setVoice_forall Q (sample v _ _ _ _ _ (hr v)) hr) _ _ hglide

/-- A block keeps every property of the slots' voices that a voice sample keeps. -/
theorem renderBlock_voices (F : Config.Fns) (Q : Slot → Voice → Prop)
    (sample : ∀ v x c gc acc g, Q v x → Q v (voiceSample F c gc x acc g).voice) (n : Nat) (s : State)
    (h : ∀ v, Q v (s.voice v)) : ∀ v, Q v ((renderSamples F n (beginBlock s)).voice v) := by
  obtain ⟨i, u, hb⟩ := beginBlock_writes s
  rw [hb]
  exact renderSamples_voices F Q sample n _ h

/-! ## One voice per key (O60) -/

/-- Voice `w` holds no key but one that `v` holds. -/
def Voice.NoNewKey (v w : Voice) : Prop := ∀ key, holdsKey w key = true → holdsKey v key = true

theorem Voice.NoNewKey.refl (v : Voice) : v.NoNewKey v := fun _ h => h

theorem Voice.NoNewKey.trans {u v w : Voice} (h : u.NoNewKey v) (k : v.NoNewKey w) : u.NoNewKey w :=
  fun key hw => h key (k key hw)

/-- If no voice is given a key, one voice per key is kept. -/
theorem OneVoicePerKey.mono {s t : State} (h : OneVoicePerKey s) (hold : ∀ v, (s.voice v).NoNewKey (t.voice v)) :
    OneVoicePerKey t :=
  fun key u v hkey hu hv => h key u v hkey (hold u key hu) (hold v key hv)

/-- A response leaves the voices. -/
theorem respond_voice (ws : List U32) (a : AfterRsp) (s : State) (v : Slot) :
    (respond ws a s).voice v = s.voice v := by
  obtain ⟨q, p, c, h⟩ := respond_writes ws a s
  rw [h]
  rfl

/-- An assigned voice holds the key it was assigned and no other (R433). -/
theorem holdsKey_assignVoice (c : Cfg) (key : BitVec 8) (vel : F32) (v : Voice) (k : BitVec 8) :
    holdsKey (assignVoice c key vel v) k = true ↔ key = k := by
  simp only [holdsKey, assignVoice, Bool.not_false, Bool.and_true]
  exact decide_eq_true_iff

/-- A release keeps KEY and DIED (R434). -/
theorem releaseVoice_noNewKey (c : Cfg) (v : Voice) : v.NoNewKey (releaseVoice c v) := fun _ h => h

/-- A voice sample keeps KEY and at most sets DIED (R475). -/
theorem voiceSample_noNewKey (F : Config.Fns) (c : Cfg) (gc : F32) (v : Voice) (acc : F32) (g : Prng) :
    v.NoNewKey (voiceSample F c gc v acc g).voice := by
  intro key h
  have hkey := (voiceSample_sameNote F c gc v acc g).key
  cases hd : v.died with
  | true => rwa [voiceSample_died F c gc acc g hd] at h
  | false =>
    simp only [holdsKey, hkey, Bool.and_eq_true] at h
    simp [holdsKey, hd, of_decide_eq_true h.1]

/-- Assigning a key to a voice keeps one voice per key when no other voice holds that key. -/
theorem OneVoicePerKey.after_assign {s : State} (h : OneVoicePerKey s) {v : Slot} {key : BitVec 8} (vel : F32)
    (alone : ∀ u, u ≠ v → holdsKey (s.voice u) key = false) : OneVoicePerKey (assign v key vel s) := by
  have owns : ∀ u k, holdsKey ((assign v key vel s).voice u) k = true →
      (u = v ∧ k = key) ∨ (u ≠ v ∧ k ≠ key ∧ holdsKey (s.voice u) k = true) := by
    intro u k hu
    unfold assign at hu
    by_cases huv : u = v
    · subst huv
      rw [State.setVoice_voice_same, holdsKey_assignVoice] at hu
      exact .inl ⟨rfl, hu.symm⟩
    · rw [State.setVoice_voice_other _ _ _ _ huv] at hu
      refine .inr ⟨huv, ?_, hu⟩
      rintro rfl
      rw [alone u huv] at hu
      cases hu
  intro k a b hk ha hb
  rcases owns a k ha with ⟨rfl, rfl⟩ | ⟨-, hak, ha⟩ <;> rcases owns b k hb with ⟨rfl, hbk⟩ | ⟨-, hbk, hb⟩
  · rfl
  · exact absurd rfl hbk
  · exact absurd hbk hak
  · exact h k a b hk ha hb

/-- The search finds a voice that holds the key, or no voice does (R431 step (a)). -/
theorem holdsKey_of_alloc {key : BitVec 8} {s : State} {v : Slot} (h : alloc key s = some v) :
    holdsKey (s.voice v) key = true ∨ ∀ u, holdsKey (s.voice u) key = false := by
  unfold alloc at h
  split at h
  case h_1 u hfind =>
    cases h
    exact .inl (List.find?_some (p := fun v => holdsKey (s.voice v) key) hfind)
  case h_2 hfind =>
    have all : ∀ u : Slot, u ∈ allSlots := by decide
    exact .inr fun u => Bool.eq_false_iff.mpr (List.find?_eq_none.mp hfind u (all u))

/-- Besides the voice the search finds no voice holds a legal key. -/
theorem OneVoicePerKey.alloc_alone {s : State} (h : OneVoicePerKey s) {key : BitVec 8} (hkey : key.toNat ≤ 127)
    {v : Slot} (ha : alloc key s = some v) (u : Slot) (huv : u ≠ v) : holdsKey (s.voice u) key = false := by
  rcases holdsKey_of_alloc ha with hv | hnone
  · exact Bool.eq_false_iff.mpr fun hu => huv (h key u v hkey hu hv)
  · exact hnone u

/-- A NOTE_ON with a legal key keeps one voice per key, unless it meets the hazard of R614. -/
theorem OneVoicePerKey.after_noteOn {s : State} (h : OneVoicePerKey s) (ch : BitVec 8) {key : BitVec 8} (vel : F32)
    (hkey : key.toNat ≤ 127)
    (safe : s.cfg.mode = .portamento → ∀ v, v ≠ 0 → holdsKey (s.voice v) key = false) :
    OneVoicePerKey (noteOn ch key vel s) := by
  rcases noteOn_cases ch key vel s with e | ⟨hm, e⟩ | ⟨v, ha, e⟩ <;> rw [e]
  · exact h
  · have hglide : OneVoicePerKey (s.setGlide (portaGlide key s)) := h
    exact hglide.after_assign vel (safe hm)
  · exact h.after_assign vel (h.alloc_alone hkey ha)

/-- No effect gives a voice a key. -/
theorem Effect.noNewKey {s t : State} (h : Effect s t) : ∀ v, (s.voice v).NoNewKey (t.voice v) := by
  have same : ∀ v, (s.voice v).NoNewKey (s.voice v) := fun v => .refl (s.voice v)
  cases h with
  | responds ws a st =>
    intro v
    rw [respond_voice]
    exact same v
  | configures c g st => exact same
  | notesOff ch key =>
    rcases noteOff_cases ch key s with e | ⟨u, e⟩ <;> rw [e]
    · exact same
    · exact setVoice_forall (fun v => (s.voice v).NoNewKey) (releaseVoice_noNewKey s.cfg (s.voice u)) same
  | renders n =>
    exact renderBlock_voices fns (fun v => (s.voice v).NoNewKey)
      (fun _ x c gc acc g hx => hx.trans (voiceSample_noNewKey fns c gc x acc g)) n s same

/-- Settles O60: a note-on by `OneVoicePerKey.after_noteOn`; every other effect gives no voice a key. -/
theorem oneVoicePerKeyIsKept : Obligations.OneVoicePerKeyIsKept := by
  intro s i h safe
  rcases exec_cases i s with ⟨ch, key, vel, hi, hkey, e⟩ | ⟨t, e, heffect⟩
  · refine ⟨_, e, h.after_noteOn ch vel hkey fun hm v hv => Bool.eq_false_iff.mpr fun hold => ?_⟩
    exact safe ⟨hm, ch, key, vel, v, hi, hv, hold⟩
  · exact ⟨t, e, h.mono heffect.noNewKey⟩

/-! ## Phase cursors stay in [0, 1) -/

/-- A wrapped phase is in [0, 1): the guard of `wrap` asks just that, and `+0.0` is (R259). -/
theorem inUnit_wrap (p : F32) : inUnit (Fp.wrap p) = true := by
  unfold Fp.wrap Fp.wrapGuard
  split
  case isTrue h => exact h
  case isFalse => decide

/-- One LFO evaluation keeps the bank's cursors in [0, 1) (R334). -/
theorem lfoValue_cursors (F : Config.Fns) (c : OscCfg) (nt : F32) (d : DestIx) {b : LfoBank}
    (h : ∀ e : DestIx, inUnit b.ph[e] = true) (e : DestIx) : inUnit (lfoValue F c nt d b).2.ph[e] = true := by
  by_cases hed : e = d
  · subst hed
    simpa [lfoValue, lfoAdvance] using inUnit_wrap _
  · simpa [lfoValue, Vector.getElem_set_ne, Fin.val_ne_of_ne (Ne.symm hed)] using h e

/-- The six LFO evaluations of a sample keep the bank's cursors in [0, 1) (R361). -/
theorem modulate_cursors (F : Config.Fns) (c : OscCfg) (nt : F32) {b : LfoBank}
    (h : ∀ e : DestIx, inUnit b.ph[e] = true) : ∀ e : DestIx, inUnit (modulate F c nt b).2.ph[e] = true := by
  have h4 := lfoValue_cursors F c nt 4 h
  have h1 := lfoValue_cursors F c nt 1 h4
  have h2 := lfoValue_cursors F c nt 2 h1
  have h3 := lfoValue_cursors F c nt 3 h2
  have h0 := lfoValue_cursors F c nt 0 h3
  exact lfoValue_cursors F c nt 5 h0

/-- An oscillator step leaves its cursors in [0, 1) (R370, R374). -/
theorem oscStep_cursors (F : Config.Fns) (c : OscCfg) (nt nb sum : F32) {o : OscState} (g : Prng)
    (h : o.cursorsInUnit) : (oscStep F c nt nb sum o g).osc.cursorsInUnit :=
  ⟨inUnit_wrap _, modulate_cursors F c nt h.2⟩

/-- The LFO cursors that a note-on restarts are in [0, 1), as are those it keeps (R336). -/
theorem syncLfos_cursors (c : Cfg) {osc : Vector OscState 2} (h : ∀ o : OscIx, (osc[o]).cursorsInUnit) (o : OscIx) :
    ((syncLfos c osc)[o]).cursorsInUnit := by
  obtain ⟨hphase, hlfo⟩ := h o
  rw [syncLfos, vec2_get]
  refine ⟨hphase, fun d => ?_⟩
  rw [vec6_get]
  split
  · decide
  · exact hlfo d

/-! ## The voice invariant -/

/-- The voice counter never runs backwards (R475). -/
theorem le_tick (t : U32) : t.toNat ≤ (tick t).toNat := by
  unfold tick
  split
  · exact Nat.le_refl _
  · bv_omega

/-- Only the envelope of a voice that is not held can be expired (R301). -/
theorem alive_of_expired {c : Cfg} {v : Voice} {w : EnvSel} (h : (envEval c v w).2 = true) : v.alive = false := by
  cases ha : v.alive with
  | false => rfl
  | true => simp [envEval, ha] at h

/-- Two oscillator steps make a pair of transients whose cursors are in [0, 1). -/
theorem cursors_pair {a b : OscState} (ha : a.cursorsInUnit) (hb : b.cursorsInUnit) (o : OscIx) :
    ((#v[a, b] : Vector OscState 2)[o]).cursorsInUnit := by
  match o with
  | 0 => exact ha
  | 1 => exact hb

/-- The reset voice: never triggered, no key, every cursor at `+0.0` (R60). -/
theorem Voice.reset_inv : Voice.reset.Inv where
  diedNotAlive := by decide
  relLeTime := by decide
  keyLegal := by decide
  heldKey := by decide
  cursors := fun o => by
    rw [Voice.reset, vec2_get]
    refine ⟨by decide, fun d => ?_⟩
    rw [OscState.reset, vec6_get]
    decide

/-- A note-on with a legal key keeps the voice invariant, whichever voice it is given (R433). -/
theorem Voice.Inv.assigned {v : Voice} (h : v.Inv) (c : Cfg) {key : BitVec 8} (vel : F32) (hkey : key.toNat ≤ 127) :
    (assignVoice c key vel v).Inv where
  diedNotAlive := fun hd => by cases hd
  relLeTime := fun ha => by cases ha
  keyLegal := .inl hkey
  heldKey := fun _ => hkey
  cursors := syncLfos_cursors c h.cursors

/-- A release keeps the voice invariant: REL_TIME becomes TIME (R434). -/
theorem Voice.Inv.released {v : Voice} (h : v.Inv) (c : Cfg) : (releaseVoice c v).Inv where
  diedNotAlive := fun _ => rfl
  relLeTime := fun _ => Nat.le_refl _
  keyLegal := h.keyLegal
  heldKey := fun ha => by cases ha
  cursors := h.cursors

/-- A voice one sample older keeps the invariant (R475). -/
theorem Voice.Inv.aged {v : Voice} (h : v.Inv) : (ageVoice v).Inv where
  diedNotAlive := h.diedNotAlive
  relLeTime := fun ha => Nat.le_trans (h.relLeTime ha) (le_tick v.time)
  keyLegal := h.keyLegal
  heldKey := h.heldKey
  cursors := h.cursors

/-- A voice sample keeps the voice invariant: a voice dies only when it is not held (R474, R475). -/
theorem Voice.Inv.sampled {v : Voice} (h : v.Inv) (F : Config.Fns) (c : Cfg) (gc acc : F32) (g : Prng) :
    (voiceSample F c gc v acc g).voice.Inv := by
  obtain ⟨hdied, hrel, hlegal, hheld, hcursors⟩ := h.aged
  rcases voiceSample_cases F c gc v acc g with ⟨-, e⟩ | ⟨-, -, e⟩ | ⟨-, -, -, e⟩ <;> rw [e]
  · exact h
  · exact ⟨alive_of_expired, hrel, hlegal, hheld, hcursors⟩
  · refine ⟨hdied, hrel, hlegal, hheld, cursors_pair ?_ ?_⟩
    · exact oscStep_cursors F _ _ _ _ _ (hcursors 0)
    · exact oscStep_cursors F _ _ _ _ _ (hcursors 1)

/-! ## The state invariant (O58, O59) -/

/-- Settles O58: six reset voices, an empty buffer, empty FIFOs and no command in flight. -/
theorem resetMeetsTheInvariant : Obligations.ResetMeetsTheInvariant where
  voices := fun v => by
    rw [State.voice, State.reset, vec6_get]
    exact Voice.reset_inv
  buf := by decide
  cmdFits := Nat.zero_le _
  rspFits := Nat.zero_le _
  waits := fun _ h => by cases h

namespace State.Inv

variable {s t : State}

/-- The invariant reads the voices, the buffer, the two FIFOs and the command in flight only. -/
theorem congr (h : s.Inv) (voices : t.voices = s.voices) (buf : t.buf = s.buf) (cmd : t.cmdFifo = s.cmdFifo)
    (rsp : t.rspFifo = s.rspFifo) (flight : t.inFlight = s.inFlight) : t.Inv where
  voices := by simpa only [State.voice, voices] using h.voices
  buf := buf ▸ h.buf
  cmdFits := cmd ▸ h.cmdFits
  rspFits := rsp ▸ h.rspFits
  waits := flight ▸ h.waits

theorem setVoice (h : s.Inv) (v : Slot) {x : Voice} (hx : x.Inv) : (s.setVoice v x).Inv :=
  ⟨setVoice_forall (fun _ y => y.Inv) hx h.voices, h.buf, h.cmdFits, h.rspFits, h.waits⟩

theorem setCmdFifo (h : s.Inv) {q : List Cmd} (hq : q.length ≤ Config.cmdFifoDepth) : (s.setCmdFifo q).Inv :=
  ⟨h.voices, h.buf, hq, h.rspFits, h.waits⟩

theorem setRspFifo (h : s.Inv) {q : List U32} (hq : q.length ≤ Config.rspFifoDepth) : (s.setRspFifo q).Inv :=
  ⟨h.voices, h.buf, h.cmdFits, hq, h.waits⟩

theorem setInFlight (h : s.Inv) {p : Option InFlight} (hp : ∀ q, p = some q → q.words ≠ []) : (s.setInFlight p).Inv :=
  ⟨h.voices, h.buf, h.cmdFits, h.rspFits, hp⟩

theorem setPort (h : s.Inv) (p : Port) : (s.setPort p).Inv := h.congr rfl rfl rfl rfl rfl

/-- A response keeps the invariant: the FIFO is not overfilled, and it waits only with words left (R611). -/
theorem respond (h : s.Inv) (ws : List U32) (a : AfterRsp) : (Machine.respond ws a s).Inv := by
  have hq := h.setRspFifo (deliver_fits (ws := ws) h.rspFits)
  rcases respond_cases ws a s with ⟨-, e⟩ | ⟨hleft, e⟩ <;> rw [e]
  · rw [finish_eq]
    exact (hq.setInFlight fun _ hp => by cases hp).congr rfl rfl rfl rfl rfl
  · exact hq.setInFlight fun _ hp => by cases hp; exact hleft

/-- A sample keeps the invariant: the voices by `Voice.Inv.sampled`, the buffer by the canonical write (R480). -/
theorem renderSample (h : s.Inv) (F : Config.Fns) : (Machine.renderSample F s).Inv := by
  obtain ⟨same, hbuf, -⟩ := renderSample_machine F s
  refine ⟨?_, ?_, same.cmdFifo ▸ h.cmdFits, same.rspFifo ▸ h.rspFits, same.inFlight ▸ h.waits⟩
  · exact renderSamples_voices F (fun _ x => x.Inv) (fun _ _ c gc acc g hx => hx.sampled F c gc acc g) 1 s h.voices
  · rw [hbuf]
    exact Memory.wf_write h.buf s.writeCursor.isLt

/-- Rendering a block keeps the invariant. -/
theorem renderBlock (h : s.Inv) (F : Config.Fns) (n : Nat) : (renderSamples F n (beginBlock s)).Inv := by
  obtain ⟨i, v, e⟩ := beginBlock_writes s
  rw [e]
  exact renderSamples_keeps F State.Inv (fun _ ht => ht.renderSample F) n _ (h.congr rfl rfl rfl rfl rfl)

/-- A note-on with a legal key keeps the invariant. -/
theorem noteOn (h : s.Inv) (ch : BitVec 8) {key : BitVec 8} (vel : F32) (hkey : key.toNat ≤ 127) :
    (Machine.noteOn ch key vel s).Inv := by
  have assigned (v : Slot) := (h.voices v).assigned s.cfg vel hkey
  rcases noteOn_cases ch key vel s with e | ⟨-, e⟩ | ⟨v, -, e⟩ <;> rw [e]
  · exact h
  · have hglide : (s.setGlide (portaGlide key s)).Inv := h.congr rfl rfl rfl rfl rfl
    exact hglide.setVoice 0 (assigned 0)
  · exact h.setVoice v (assigned v)

/-- A note-off keeps the invariant. -/
theorem noteOff (h : s.Inv) (ch key : BitVec 8) : (Machine.noteOff ch key s).Inv := by
  rcases noteOff_cases ch key s with e | ⟨v, e⟩ <;> rw [e]
  · exact h
  · exact h.setVoice v ((h.voices v).released s.cfg)

/-- Every effect keeps the invariant. -/
theorem effect (h : s.Inv) (he : Effect s t) : t.Inv := by
  cases he with
  | responds ws a st =>
    have hstatus : (s.setStatus st).Inv := h.congr rfl rfl rfl rfl rfl
    exact hstatus.respond ws a
  | configures c g st => exact h.congr rfl rfl rfl rfl rfl
  | notesOff ch key => exact h.noteOff ch key
  | renders n => exact h.renderBlock fns n

/-- Every command keeps the invariant. -/
theorem exec (h : s.Inv) (i : Instr) : ∃ t, Machine.exec i s = .next t ∧ t.Inv := by
  rcases exec_cases i s with ⟨ch, key, vel, -, hkey, e⟩ | ⟨t, e, he⟩
  · exact ⟨_, e, h.noteOn ch vel hkey⟩
  · exact ⟨t, e, h.effect he⟩

/-- Every command word keeps the invariant. -/
theorem runWord (h : s.Inv) (w : Cmd) : ∃ t, Machine.runWord w s = .next t ∧ t.Inv := by
  rcases runWord_cases w s with ⟨i, e⟩ | ⟨err, n, e⟩
  · rw [e]
    exact h.exec i
  · exact ⟨_, e, h.effect (raiseCmdError_effect err n s)⟩

/-- Every move of the host keeps the invariant. -/
theorem hostMove (h : s.Inv) (ht : Machine.hostMove s = some t) : t.Inv := by
  rcases hostMove_cases ht with ⟨cmd, rest, hlt, rfl⟩ | ⟨w, ws, rest, hq, rfl⟩ | ⟨rest, rfl⟩
  · have hfits : (s.cmdFifo ++ [cmd]).length ≤ Config.cmdFifoDepth := by simpa using hlt
    exact (h.setCmdFifo hfits).setPort _
  · have hfits : ws.length ≤ Config.rspFifoDepth := by
      have := h.rspFits
      rw [hq, List.length_cons] at this
      omega
    exact (h.setRspFifo hfits).setPort _
  · exact resetMeetsTheInvariant.setPort _

/-- The block's move answers and keeps the invariant. -/
theorem blockMove (h : s.Inv) : ∃ t, Machine.blockMove s = .next t ∧ t.Inv := by
  cases hf : s.inFlight with
  | some p => exact ⟨_, blockMove_inFlight hf, h.respond p.words p.after⟩
  | none =>
    cases hc : s.cmdFifo with
    | nil => exact ⟨s, blockMove_idle hf hc, h⟩
    | cons w rest =>
      have hfits : rest.length ≤ Config.cmdFifoDepth := by
        have := h.cmdFits
        rw [hc, List.length_cons] at this
        omega
      rw [blockMove_runs hf hc]
      exact (h.setCmdFifo hfits).runWord w

end State.Inv

/-- Settles O59: a step is a move of the host or, once a `pass` is spent, of the block, and both keep the invariant. -/
theorem stepKeepsTheInvariant : Obligations.StepKeepsTheInvariant := by
  intro s h
  cases hm : hostMove s with
  | some t => exact ⟨t, step_of_hostMove_some hm, h.hostMove hm⟩
  | none =>
    obtain ⟨p, hp⟩ := spendPass_writes s
    rw [step_of_hostMove_none hm, hp]
    exact (h.setPort p).blockMove

end Sys2Proof.Machine

end

/-! # The register map, the output buffer and the head of the command FIFO (20_memory.md)

Proofs of the obligations on the memories of the block: the address map, the frames that RENDER stores and POP_OUTPUT
reads, and the command FIFO that a step takes its command from. -/

section

namespace Sys2Proof.Machine

/-! ## The address map table by table (R53 to R60)

Each table's partial inverse finds an entry just at that entry's offset. -/

theorem globalAt_eq_some {n : Nat} {g : GlobalReg} : globalAt n = some g ↔ globalOff g = n := by
  constructor
  · intro h
    unfold globalAt at h
    split at h <;> cases h <;> rfl
  · rintro rfl
    cases g <;> rfl

theorem envAt_eq_some {n : Nat} {w : EnvSel} {f : EnvField} :
    envAt n = some (w, f) ↔ regAddr (.env w f) = 0x10 + n := by
  constructor
  · intro h
    unfold envAt at h
    split at h <;> cases h <;> rfl
  · intro h
    cases w <;> rw [regAddr] at h
    · obtain rfl : n = envOff f := by omega
      cases f <;> rfl
    · obtain rfl : n = 4 + envOff f := by omega
      cases f <;> rfl

theorem oscFieldAt_eq_some {n : Nat} {f : OscField} : oscFieldAt n = some f ↔ oscOff f = n := by
  constructor
  · intro h
    unfold oscFieldAt at h
    split at h <;> cases h <;> rfl
  · rintro rfl
    cases f <;> rfl

theorem lfoFieldAt_eq_some {n : Nat} {f : LfoField} : lfoFieldAt n = some f ↔ lfoOff f = n := by
  constructor
  · intro h
    unfold lfoFieldAt at h
    split at h <;> cases h <;> rfl
  · rintro rfl
    cases f <;> rfl

theorem statAt_eq_some {n : Nat} {r : StatReg} : statAt n = some r ↔ statOff r = n := by
  constructor
  · intro h
    unfold statAt at h
    split at h <;> cases h <;> rfl
  · rintro rfl
    cases r <;> rfl

theorem destAt_eq_some {n : Nat} {d : DestIx} : destAt n = some d ↔ d.val = n := by
  constructor
  · intro h
    unfold destAt at h
    split at h <;> cases h <;> rfl
  · rintro rfl
    fin_cases d <;> rfl

theorem slotAt_eq_some {n : Nat} {v : Slot} : slotAt n = some v ↔ v.val = n := destAt_eq_some

/-! The offsets stay inside their blocks. -/

theorem globalOff_lt (g : GlobalReg) : globalOff g < 0x10 := by cases g <;> decide
theorem envOff_lt (f : EnvField) : envOff f < 4 := by cases f <;> decide
theorem oscOff_lt (f : OscField) : oscOff f < 0x10 := by cases f <;> decide
theorem lfoOff_lt (f : LfoField) : lfoOff f < 0x10 := by cases f <;> decide
theorem statOff_lt (r : StatReg) : statOff r < 0x10 := by cases r <;> decide

/-! ## The registers of a voice block (R60) -/

/-- The offsets of an oscillator's transients in a voice block, seen from their first one. -/
theorem voiceOff_of_voiceOscAt {o : OscIx} {n : Nat} {r : VoiceReg} (h : voiceOscAt o n = some r) :
    voiceOff r = 0x10 + 0x08 * o.val + n := by
  unfold voiceOscAt at h
  split at h
  case h_1 => cases h; rfl
  case h_2 => cases h; simp only [voiceOff]; omega
  case h_3 k =>
    obtain ⟨d, hd, rfl⟩ := Option.map_eq_some_iff.mp h
    have hdest := destAt_eq_some.mp hd
    simp only [voiceOff]
    omega

theorem voiceOff_of_voiceAt {n : Nat} {r : VoiceReg} (h : voiceAt n = some r) : voiceOff r = n := by
  unfold voiceAt at h
  split at h
  case h_14 =>
    split at h
    case isTrue =>
      have hosc0 : voiceOff r = 0x10 + (n - 0x10) := voiceOff_of_voiceOscAt h
      omega
    case isFalse =>
      split at h
      case isTrue =>
        have hosc1 : voiceOff r = 0x18 + (n - 0x18) := voiceOff_of_voiceOscAt h
        omega
      case isFalse => cases h
  all_goals cases h; rfl

/-- The transients of oscillator `o` lie at `0x10 + 0x08 * o` of a voice block. -/
theorem voiceAt_transients (o : OscIx) {n : Nat} (hn : n < 8) :
    voiceAt (0x10 + 0x08 * o.val + n) = voiceOscAt o n := by
  fin_cases o <;> interval_cases n <;> rfl

theorem voiceAt_voiceOff (r : VoiceReg) : voiceAt (voiceOff r) = some r := by
  cases r with
  | fs i => fin_cases i <;> rfl
  | phase o => exact voiceAt_transients o (n := 0) (by decide)
  | prev o =>
    rw [voiceOff, show 0x11 + 0x08 * o.val = 0x10 + 0x08 * o.val + 1 by omega]
    exact voiceAt_transients o (by decide)
  | lfoPh o d =>
    rw [voiceOff, show 0x12 + 0x08 * o.val + d.val = 0x10 + 0x08 * o.val + (d.val + 2) by omega,
      voiceAt_transients o (by omega), voiceOscAt, destAt_eq_some.mpr rfl]
    rfl
  | _ => rfl

theorem voiceOff_lt (r : VoiceReg) : voiceOff r < 0x40 := by
  cases r <;> simp only [voiceOff] <;> omega

/-! ## An oscillator block (R55, R57) -/

theorem oscBase_zero : oscBase 0 = 0x0100 := rfl
theorem oscBase_one : oscBase 1 = 0x0180 := rfl

theorem regAddr_of_oscBlockAt {o : OscIx} {n : Nat} {r : Reg} (h : oscBlockAt o n = some r) :
    regAddr r = oscBase o + n := by
  unfold oscBlockAt at h
  split at h
  case isTrue =>
    obtain ⟨f, hf, rfl⟩ := Option.map_eq_some_iff.mp h
    rw [regAddr, oscFieldAt_eq_some.mp hf]
  case isFalse =>
    obtain ⟨d, hd, h⟩ := Option.bind_eq_some_iff.mp h
    obtain ⟨f, hf, rfl⟩ := Option.map_eq_some_iff.mp h
    have hdest := destAt_eq_some.mp hd
    have hfield := lfoFieldAt_eq_some.mp hf
    simp only [regAddr, lfoBase]
    omega

theorem oscBlockAt_oscOff (o : OscIx) (f : OscField) : oscBlockAt o (oscOff f) = some (.osc o f) := by
  rw [oscBlockAt, if_pos (oscOff_lt f), oscFieldAt_eq_some.mpr rfl]
  rfl

theorem oscBlockAt_lfoOff (o : OscIx) (d : DestIx) (f : LfoField) :
    oscBlockAt o (0x10 + 0x10 * d.val + lfoOff f) = some (.lfo o d f) := by
  have hf := lfoOff_lt f
  have hdest : destAt ((0x10 + 0x10 * d.val + lfoOff f) / 0x10 - 1) = some d := destAt_eq_some.mpr (by omega)
  have hfield : lfoFieldAt ((0x10 + 0x10 * d.val + lfoOff f) % 0x10) = some f := lfoFieldAt_eq_some.mpr (by omega)
  rw [oscBlockAt, if_neg (by omega), hdest, Option.bind_some, hfield]
  rfl

/-! ## The whole map (R151) -/

/-- Oscillator `o`'s block lies at `oscBase o`. -/
theorem regAt_oscBase (o : OscIx) {n : Nat} (hn : n < 0x80) : regAt (oscBase o + n) = oscBlockAt o n := by
  match o with
  | 0 =>
    rw [oscBase_zero, regAt, if_neg (by omega), if_neg (by omega), if_pos (by omega), Nat.add_sub_cancel_left]
  | 1 =>
    rw [oscBase_one, regAt, if_neg (by omega), if_neg (by omega), if_neg (by omega), if_pos (by omega),
      Nat.add_sub_cancel_left]

/-- Voice `v`'s block lies at `voiceBase v`. -/
theorem regAt_voiceBase (v : Slot) {n : Nat} (hn : n < 0x40) :
    regAt (voiceBase v + n) = (voiceAt n).map (.voice v) := by
  have hslot : slotAt ((voiceBase v + n - 0x1000) / 0x40) = some v :=
    slotAt_eq_some.mpr (by unfold voiceBase; omega)
  have hoff : (voiceBase v + n - 0x1000) % 0x40 = n := by unfold voiceBase; omega
  have hge : 0x1000 ≤ voiceBase v + n := by unfold voiceBase; omega
  rw [regAt, if_neg (by omega), if_neg (by omega), if_neg (by omega), if_neg (by omega), if_neg (by omega),
    if_pos hge, hslot, hoff, Option.bind_some]

/-- What an address names lies at that address. -/
theorem regAddr_of_regAt {n : Nat} {r : Reg} (h : regAt n = some r) : regAddr r = n := by
  unfold regAt at h
  split_ifs at h
  · obtain ⟨g, hg, rfl⟩ := Option.map_eq_some_iff.mp h
    exact globalAt_eq_some.mp hg
  · obtain ⟨⟨w, f⟩, hf, rfl⟩ := Option.map_eq_some_iff.mp h
    have hoff := envAt_eq_some.mp hf
    dsimp only
    omega
  · have hblock := regAddr_of_oscBlockAt h
    rw [oscBase_zero] at hblock
    omega
  · have hblock := regAddr_of_oscBlockAt h
    rw [oscBase_one] at hblock
    omega
  · obtain ⟨x, hx, rfl⟩ := Option.map_eq_some_iff.mp h
    have hoff := statAt_eq_some.mp hx
    rw [regAddr]
    omega
  · obtain ⟨v, hv, h⟩ := Option.bind_eq_some_iff.mp h
    obtain ⟨x, hx, rfl⟩ := Option.map_eq_some_iff.mp h
    have hslot := slotAt_eq_some.mp hv
    have hoff := voiceOff_of_voiceAt hx
    rw [regAddr, voiceBase]
    omega

/-- Every register is what its address names. -/
theorem regAt_regAddr (r : Reg) : regAt (regAddr r) = some r := by
  cases r with
  | global g =>
    rw [regAddr, regAt, if_pos (globalOff_lt g), globalAt_eq_some.mpr rfl]
    rfl
  | env w f =>
    have hf := envOff_lt f
    obtain ⟨n, hn, hlt⟩ : ∃ n, regAddr (.env w f) = 0x10 + n ∧ n < 0x10 := by
      cases w
      · exact ⟨envOff f, rfl, by omega⟩
      · exact ⟨4 + envOff f, by rw [regAddr]; omega, by omega⟩
    have henv := envAt_eq_some.mpr hn
    rw [hn, regAt, if_neg (by omega), if_pos (by omega), Nat.add_sub_cancel_left, henv]
    rfl
  | osc o f => rw [regAddr, regAt_oscBase o (Nat.lt_trans (oscOff_lt f) (by decide)), oscBlockAt_oscOff]
  | lfo o d f =>
    have hf := lfoOff_lt f
    have haddr : regAddr (.lfo o d f) = oscBase o + (0x10 + 0x10 * d.val + lfoOff f) := by
      rw [regAddr, lfoBase]
      omega
    rw [haddr, regAt_oscBase o (by omega), oscBlockAt_lfoOff]
  | stat x =>
    have hx := statOff_lt x
    rw [regAddr, regAt, if_neg (by omega), if_neg (by omega), if_neg (by omega), if_neg (by omega), if_pos (by omega),
      Nat.add_sub_cancel_left, statAt_eq_some.mpr rfl]
    rfl
  | voice v x =>
    rw [regAddr, regAt_voiceBase v (voiceOff_lt x), voiceAt_voiceOff]
    rfl

/-- Settles O4: an address names a register that lies there, and every register lies at an address that names it. -/
theorem registerMapIsTheTables : Obligations.RegisterMapIsTheTables := by
  intro a r
  constructor
  · exact regAddr_of_regAt
  · intro h
    rw [regOfAddr, ← h, regAt_regAddr]

/-! ## RENDER's stores (R161, R479) -/

/-- The cursor `k + 1` frames on is `k` frames on from the next one (R161). -/
theorem nextCursor_add (c : Cursor) (k : Nat) : ((nextCursor c).val + k) % 44100 = (c.val + (k + 1)) % 44100 := by
  rw [nextCursor, Nat.mod_add_mod, Nat.add_assoc, Nat.add_comm 1 k]

/-- Rendering `n` samples leaves every frame but the `n` from the write cursor on. -/
theorem renderSamples_frame_other (F : Config.Fns) {i : Nat} (n : Nat) (s : State) (hs : Memory.wf s.buf)
    (hi : ∀ k < n, i ≠ (s.writeCursor.val + k) % 44100) :
    Memory.read (renderSamples F n s).buf i = Memory.read s.buf i := by
  induction n generalizing s with
  | zero => rfl
  | succ n ih =>
    obtain ⟨-, hbuf, hcursor⟩ := renderSample_machine F s
    have hfirst : i ≠ s.writeCursor.val := by
      have := hi 0 n.succ_pos
      rwa [Nat.add_zero, Nat.mod_eq_of_lt s.writeCursor.isLt] at this
    have hwf : Memory.wf (renderSample F s).buf := hbuf ▸ Memory.wf_write hs s.writeCursor.isLt
    have hrest : ∀ k < n, i ≠ ((renderSample F s).writeCursor.val + k) % 44100 := by
      intro k hk
      rw [hcursor, nextCursor_add]
      exact hi (k + 1) (Nat.succ_lt_succ hk)
    calc Memory.read (renderSamples F (n + 1) s).buf i
        = Memory.read (renderSample F s).buf i := ih _ hwf hrest
      _ = Memory.read s.buf i := by rw [hbuf, Memory.read_write_other _ hs.1 _ hfirst]

/-- Settles O30: the block's first step writes the arpeggio registers only, then `renderSamples_frame_other`. -/
theorem renderStoresOnlyItsFrames : Obligations.RenderStoresOnlyItsFrames := by
  intro s t n hs ht i hi
  obtain ⟨x, v, hb⟩ := beginBlock_writes s
  have ht : renderSamples fns n.toNat (s.setArp x v) = t := hb ▸ Host.Outcome.next.inj ht
  rw [← ht]
  exact renderSamples_frame_other fns n.toNat (s.setArp x v) hs hi

/-! ## The head of the command FIFO (R170, R201) -/

/-- A word that decodes is executed (R212). -/
theorem runWord_of_decode {w : Cmd} {i : Instr} (h : decode w = .instr i) (s : State) : runWord w s = exec i s := by
  simp only [runWord, h]

/-- Settles O5: the turn is the block's, spending a `pass` leaves its FIFO, and the block runs the head word. -/
theorem stepRunsTheDecodedCommand : Obligations.StepRunsTheDecodedCommand := by
  intro s w rest i hhost hflight hfifo hdecode
  obtain ⟨p, hp⟩ := spendPass_writes s
  rw [step_of_hostMove_none hhost, hp]
  have hruns : blockMove (s.setPort p) = runWord w ((s.setPort p).setCmdFifo rest) := blockMove_runs hflight hfifo
  rw [hruns, runWord_of_decode hdecode]

/-! ## POP_OUTPUT at each amount of room (R504, R611) -/

/-- Without room the first word waits, and all behind it. -/
theorem deliver_noRoom {s : State} (h : ¬ RoomFor 1 s) (ws : List U32) : deliver ws s.rspFifo = (s.rspFifo, ws) := by
  cases ws with
  | nil => rfl
  | cons w ws => exact if_neg h

/-- With room for one word alone, the first is delivered and those behind it wait. -/
theorem deliver_roomForOne {s : State} (hone : RoomFor 1 s) (htwo : ¬ RoomFor 2 s) (w : U32) (ws : List U32) :
    deliver (w :: ws) s.rspFifo = (s.rspFifo ++ [w], ws) := by
  have hfull : ¬ RoomFor 1 (s.setRspFifo (s.rspFifo ++ [w])) := by simpa [RoomFor, Nat.add_assoc] using htwo
  exact (if_pos hone).trans (deliver_noRoom hfull ws)

/-- POP_OUTPUT without room for both its words keeps the read cursor; those that do not fit wait (R504, R611). -/
theorem exec_popOutput_waits {s : State} (h : ¬ RoomFor 2 s) : exec .popOutput s =
    .next ((s.setRspFifo (deliver (popWords s) s.rspFifo).1).setInFlight
      (some ⟨(deliver (popWords s) s.rspFifo).2, .advanceRead⟩)) :=
  congrArg Host.Outcome.next (respond_waits (ws := popWords s) .advanceRead h (List.cons_ne_nil _ _)).2

/-- Settles O54: with room for both words the command completes; else the right one waits, or both do. -/
theorem popOutputRespondsAndAdvances : Obligations.PopOutputRespondsAndAdvances := by
  intro s
  refine ⟨fun htwo => ?both, fun hone htwo => ?left, fun hone => ?none⟩
  case both =>
    refine ⟨nextCursor s.readCursor, rfl, congrArg Host.Outcome.next ?_⟩
    exact respond_room (ws := popWords s) .advanceRead htwo
  case left =>
    rw [exec_popOutput_waits htwo, popWords, deliver_roomForOne hone htwo]
    rfl
  case none =>
    have htwo : ¬ RoomFor 2 s := fun h => hone (Nat.le_of_succ_le h)
    rw [exec_popOutput_waits htwo, deliver_noRoom hone]
    rfl

end Sys2Proof.Machine

end

/-! # The command words (30_encoding.md)

Proofs of the obligations on decoding and encoding: a command's word carries its row's pattern and its operands in
their fields, and a word that decodes is made of nothing else. -/

section

namespace Sys2Proof.Machine

/-! ## What a word decodes to (R211, R212) -/

/-- The opcode map has no row for 0x08..0xFF, and for no other byte (R204). -/
theorem opcodeOf_eq_none_iff {b : BitVec 8} : opcodeOf b = none ↔ 0x08 ≤ b.toNat := by
  simp only [opcodeOf, BitVec.toNat_eq, BitVec.toNat_ofNat]
  split_ifs <;> simp <;> omega

/-- A word that selects a row is the row's command or has a reserved bit set (R205, R210). -/
theorem decode_of_opcode {w : Cmd} {op : Opcode} (hop : opcodeOf (opByte w) = some op) :
    decode w = if w &&& opMask op = opMatch op then .instr (operands op w) else .reservedBits op (fieldLow w) := by
  simp only [decode, hop]

/-- The opcode alone makes a word one of a reserved opcode (R211). -/
theorem decode_eq_reservedOpcode_iff {w : Cmd} : decode w = .reservedOpcode ↔ 0x08 ≤ (opByte w).toNat := by
  rw [← opcodeOf_eq_none_iff]
  cases hop : opcodeOf (opByte w) with
  | none => simp only [decode, hop]
  | some op =>
    rw [decode_of_opcode hop]
    split_ifs <;> simp

/-- A word decodes to a command just when it matches a row under the row's mask and holds the command's operands. -/
theorem decode_eq_instr_iff {w : Cmd} {i : Instr} : decode w = .instr i ↔
    ∃ op, opcodeOf (opByte w) = some op ∧ w &&& opMask op = opMatch op ∧ operands op w = i := by
  cases hop : opcodeOf (opByte w) with
  | none => simp [decode, hop]
  | some op =>
    rw [decode_of_opcode hop]
    split_ifs with hmask <;> simp [hmask]

/-! ## The fields of a word laid out by the formats N, C and R (R202, R203) -/

theorem fieldHi_formatN (op ch key zero : BitVec 8) (low : U32) : fieldHi (op ++ ch ++ key ++ zero ++ low) = ch :=
  (BitVec.extractLsb'_append_eq_of_le (by decide)).trans <|
    (BitVec.extractLsb'_append_eq_of_le (by decide)).trans <|
      (BitVec.extractLsb'_append_eq_of_le (by decide)).trans BitVec.extractLsb'_append_eq_right

theorem fieldKey_formatN (hi : BitVec 16) (key zero : BitVec 8) (low : U32) :
    fieldKey (hi ++ key ++ zero ++ low) = key :=
  (BitVec.extractLsb'_append_eq_of_le (by decide)).trans <|
    (BitVec.extractLsb'_append_eq_of_le (by decide)).trans BitVec.extractLsb'_append_eq_right

theorem fieldHi_formatC (op osc : BitVec 8) (zero : BitVec 16) (low : U32) :
    fieldHi (op ++ osc ++ zero ++ low) = osc :=
  (BitVec.extractLsb'_append_eq_of_le (by decide)).trans <|
    (BitVec.extractLsb'_append_eq_of_le (by decide)).trans BitVec.extractLsb'_append_eq_right

theorem fieldAddr_formatR (hi addr : BitVec 16) (low : U32) : fieldAddr (hi ++ addr ++ low) = addr :=
  (BitVec.extractLsb'_append_eq_of_le (by decide)).trans BitVec.extractLsb'_append_eq_right

theorem fieldLow_append (hi : BitVec 32) (low : U32) : fieldLow (hi ++ low) = low :=
  BitVec.extractLsb'_append_eq_right

/-! ## Encode, then decode (O1) -/

/-- Every command's word carries its row's opcode and matches the row under its mask (R205). -/
theorem encodedRow (i : Instr) : Laws.EncodedRow.Statement i := by
  cases i with
  | nop => exact Laws.EncodedRow.nop
  | noteOn ch key vel => exact Laws.EncodedRow.noteOn ch key vel
  | noteOff ch key => exact Laws.EncodedRow.noteOff ch key
  | render count => exact Laws.EncodedRow.render count
  | cfgWrite addr data => exact Laws.EncodedRow.cfgWrite addr data
  | regRead addr => exact Laws.EncodedRow.regRead addr
  | popOutput => exact Laws.EncodedRow.popOutput
  | renderScope osc count => exact Laws.EncodedRow.renderScope osc count

/-- The operand fields of a command's word are the command's operands (R203). -/
theorem operands_encode (i : Instr) : operands (opcodeOfInstr i) (encode i) = i := by
  cases i with
  | nop => rfl
  | noteOn ch key vel =>
    exact (Instr.noteOn.injEq ..).mpr ⟨fieldHi_formatN .., fieldKey_formatN .., fieldLow_append ..⟩
  | noteOff ch key => exact (Instr.noteOff.injEq ..).mpr ⟨fieldHi_formatN .., fieldKey_formatN ..⟩
  | render count => exact congrArg Instr.render (fieldLow_append ..)
  | cfgWrite addr data => exact (Instr.cfgWrite.injEq ..).mpr ⟨fieldAddr_formatR .., fieldLow_append ..⟩
  | regRead addr => exact congrArg Instr.regRead (fieldAddr_formatR ..)
  | popOutput => rfl
  | renderScope osc count => exact (Instr.renderScope.injEq ..).mpr ⟨fieldHi_formatC .., fieldLow_append ..⟩

/-- Settles O1: the word passes the decoder's two checks and gives the operands back. -/
theorem decodeOfEncode : Obligations.DecodeOfEncode := by
  intro i
  obtain ⟨hop, hmask⟩ := encodedRow i
  exact decode_eq_instr_iff.mpr ⟨opcodeOfInstr i, hop, hmask, operands_encode i⟩

/-! ## Decode, then encode (O2) -/

/-- Encoding the operands of a word keeps the word's operand bits and sets OP and the reserved bits to the row's
match: the mask covers just the bits that are in no operand field (R205). -/
theorem encode_operands (op : Opcode) (w : Cmd) :
    encode (operands op w) = w &&& ~~~opMask op ||| opMatch op := by
  apply BitVec.eq_of_getLsbD_eq
  intro k hk
  cases op <;>
  · simp only [operands, encode, fieldHi, fieldKey, fieldAddr, fieldLow, opMask, opMatch, BitVec.getLsbD_append,
      BitVec.getLsbD_extractLsb', BitVec.getLsbD_or, BitVec.getLsbD_and, BitVec.getLsbD_not]
    interval_cases k <;> simp

/-- Settles O2: under the mask the word is the row's match, outside it `encode_operands` keeps the word. -/
theorem encodeOfDecode : Obligations.EncodeOfDecode := by
  intro w i h
  obtain ⟨op, -, hmask, rfl⟩ := decode_eq_instr_iff.mp h
  calc encode (operands op w)
      = w &&& ~~~opMask op ||| w &&& opMask op := by rw [encode_operands, hmask]
    _ = w := by rw [← BitVec.and_or_distrib_left, BitVec.not_or_self, BitVec.and_allOnes]

/-! ## Reserved opcodes (O7) -/

/-- A word of a reserved opcode is rejected with E_OPCODE and gives no response (R550). -/
theorem runWord_reservedOpcode {w : Cmd} (h : 0x08 ≤ (opByte w).toNat) (s : State) :
    runWord w s = .next ((s.setStatus (s.status ||| 1#4)).setInFlight none) := by
  simp only [runWord, decode_eq_reservedOpcode_iff.mpr h, rejectWord, raiseCmdError_zero, statusRaise, errorMask]

/-- With no command in flight, ending the command changes nothing. -/
theorem State.setInFlight_none_self {s : State} (h : s.inFlight = none) : s.setInFlight none = s := by
  rw [← h]
  rfl

/-- Settles O7: such words are those of no row of the opcode map, and the block that takes one sets E_OPCODE. -/
theorem reservedOpcodeSetsEOpcode : Obligations.ReservedOpcodeSetsEOpcode := by
  refine ⟨fun _ => decode_eq_reservedOpcode_iff, fun s w rest hflight hfifo hop => ?_⟩
  rw [blockMove_runs hflight hfifo, runWord_reservedOpcode hop]
  exact congrArg Host.Outcome.next
    (State.setInFlight_none_self (s := (s.setCmdFifo rest).setStatus (s.status ||| 1#4)) hflight)

end Sys2Proof.Machine

end

/-! # Numerics (40_numerics.md)

Proofs of the obligations on the arithmetic: what the comparisons, the rounding of representable values and the wrapped
open functions do is said once, and the obligations are read off. -/

section

namespace Sys2Proof.Machine.Fp

/-! ## Comparisons (R254) -/

/-- An infinity is no NaN. -/
theorem isNaN_of_isInf {x : F32} (h : isInf x = true) : isNaN x = false :=
  isNaN_eq_false.mpr (Nat.le_of_eq (of_decide_eq_true h))

/-- A NaN is no zero. -/
theorem isZero_of_isNaN {x : F32} (h : isNaN x = true) : isZero x = false :=
  decide_eq_false (Nat.ne_of_gt (Nat.zero_lt_of_lt (of_decide_eq_true h)))

theorem isFinite_iff {x : F32} : isFinite x = true ↔ mag x < infMag := decide_eq_true_iff

theorem isNaN_of_isFinite {x : F32} (h : isFinite x = true) : isNaN x = false :=
  isNaN_eq_false.mpr (Nat.le_of_lt (isFinite_iff.mp h))

theorem isInf_of_isFinite {x : F32} (h : isFinite x = true) : isInf x = false :=
  decide_eq_false (Nat.ne_of_lt (isFinite_iff.mp h))

theorem le_iff {x y : F32} : le x y = true ↔ isNaN x = false ∧ isNaN y = false ∧ key x ≤ key y := by
  simp [le, and_assoc]

theorem lt_iff {x y : F32} : lt x y = true ↔ isNaN x = false ∧ isNaN y = false ∧ key x < key y := by
  simp [lt, and_assoc]

theorem ge_iff {x y : F32} : ge x y = true ↔ le y x = true := Iff.rfl

theorem gt_iff {x y : F32} : gt x y = true ↔ lt y x = true := Iff.rfl

theorem le_self {x : F32} (h : isNaN x = false) : le x x = true := le_iff.mpr ⟨h, h, Int.le_refl _⟩

/-- Two values that are no NaN are ordered one way or the other. -/
theorem not_lt_iff_le {x y : F32} (hx : isNaN x = false) (hy : isNaN y = false) :
    ¬ lt y x = true ↔ le x y = true := by
  simp [lt_iff, le_iff, hx, hy]

/-- A negative value has its sign bit set and is not zero. -/
theorem lt_pos0_iff {x : F32} : lt x pos0 = true ↔ isNaN x = false ∧ isZero x = false ∧ sign x = true := by
  have hzero : isNaN pos0 = false ∧ key pos0 = 0 := by decide
  have hkey : key x < 0 ↔ mag x ≠ 0 ∧ sign x = true := by
    unfold key
    split <;> grind
  rw [lt_iff, hzero.1, hzero.2, hkey]
  simp [isZero]

/-- A positive value has its sign bit clear and is not zero. -/
theorem gt_pos0_iff {x : F32} : gt x pos0 = true ↔ isNaN x = false ∧ isZero x = false ∧ sign x = false := by
  have hzero : isNaN pos0 = false ∧ key pos0 = 0 := by decide
  have hkey : 0 < key x ↔ mag x ≠ 0 ∧ sign x = false := by
    unfold key
    split <;> grind
  rw [gt_iff, lt_iff, hzero.1, hzero.2, hkey]
  simp [isZero]

/-! ## Minimum, maximum and clamp (R256) -/

/-- A NaN, like a value below the lower bound, clamps to it. -/
theorem clamp_of_not_ge {x lo : F32} (hi : F32) (h : ¬ ge x lo = true) : clamp x lo hi = lo := by simp [clamp, h]

theorem clamp_of_gt {x lo hi : F32} (hlo : ge x lo = true) (hhi : gt x hi = true) : clamp x lo hi = hi := by
  simp [clamp, hlo, hhi]

theorem clamp_of_not_gt {x lo hi : F32} (hlo : ge x lo = true) (hhi : ¬ gt x hi = true) : clamp x lo hi = x := by
  simp [clamp, hlo, hhi]

/-- A clamp between ordered bounds lies between them, whatever is clamped. -/
theorem clamp_between (x : F32) {lo hi : F32} (h : le lo hi = true) :
    le lo (clamp x lo hi) = true ∧ le (clamp x lo hi) hi = true := by
  obtain ⟨hlo, hhi, -⟩ := le_iff.mp h
  by_cases hge : ge x lo = true
  · by_cases hgt : gt x hi = true
    · rw [clamp_of_gt hge hgt]
      exact ⟨h, le_self hhi⟩
    · obtain ⟨-, hx, -⟩ := le_iff.mp hge
      rw [clamp_of_not_gt hge hgt]
      exact ⟨hge, (not_lt_iff_le hx hhi).mp hgt⟩
  · rw [clamp_of_not_ge hi hge]
    exact ⟨le_self hlo, h⟩

/-- A value between the bounds is its own clamp. -/
theorem clamp_of_between {x lo hi : F32} (hlo : ge x lo = true) (hhi : le x hi = true) : clamp x lo hi = x := by
  obtain ⟨hx, hn, -⟩ := le_iff.mp hhi
  exact clamp_of_not_gt hlo ((not_lt_iff_le hx hn).mpr hhi)

/-- Settles O51: on a NaN every comparison is false; the band by the branches of `clamp`. -/
theorem clampStaysBetweenItsBounds : Obligations.ClampStaysBetweenItsBounds := by
  refine fun x lo hi => ⟨fun hnan => ?_, clamp_between x, clamp_of_between⟩
  have hge : ¬ ge x lo = true := fun h => by simp [(le_iff.mp h).2.1] at hnan
  have hgt : ¬ gt x lo = true := fun h => by simp [(lt_iff.mp h).2.1] at hnan
  have hlt : ¬ lt x lo = true := fun h => by simp [(lt_iff.mp h).1] at hnan
  exact ⟨clamp_of_not_ge hi hge, if_neg hgt, if_neg hlt⟩

/-! ## NaN results of the operators (R253) -/

/-- The result `r` is the canonical quiet NaN if it is a NaN at all (R253). -/
def Canonical (r : F32) : Prop := isNaN r = true → r = nan

theorem Canonical.of_not_isNaN {r : F32} (h : isNaN r = false) : Canonical r := fun hr => by simp [h] at hr

theorem canonical_nan : Canonical nan := fun _ => rfl

theorem canonical_inf (s : Bool) : Canonical (inf s) := .of_not_isNaN (isNaN_pack s (Nat.le_refl _))

theorem canonical_zero (s : Bool) : Canonical (pack s 0) := .of_not_isNaN (isNaN_pack s (Nat.zero_le _))

theorem canonical_rounded (s : Bool) (n d : Nat) : Canonical (pack s (roundMag n d)) :=
  .of_not_isNaN (isNaN_pack s (roundMag_le n d))

theorem canonical_infinite {x : F32} (h : isInf x = true) : Canonical x := .of_not_isNaN (isNaN_of_isInf h)

theorem add_canonical (x y : F32) : Canonical (add x y) := by
  unfold add
  split_ifs with _ hx _ hy
  · exact canonical_nan
  · exact canonical_nan
  · exact canonical_infinite hx
  · exact canonical_infinite hy
  · exact canonical_zero _
  · exact canonical_rounded _ _ _

theorem mul_canonical (x y : F32) : Canonical (mul x y) := by
  unfold mul
  split_ifs
  · exact canonical_nan
  · exact canonical_nan
  · exact canonical_inf _
  · exact canonical_rounded _ _ _

theorem div_canonical (x y : F32) : Canonical (div x y) := by
  unfold div
  split_ifs
  · exact canonical_nan
  · exact canonical_nan
  · exact canonical_inf _
  · exact canonical_zero _
  · exact canonical_nan
  · exact canonical_inf _
  · exact canonical_rounded _ _ _

/-- A value rounded to integral is a zero or a rounded integer. -/
theorem integral_canonical (x : F32) (k : Int) : Canonical (integral x k) := by
  unfold integral
  split
  · exact canonical_zero _
  · exact canonical_rounded _ _ _

theorem floor_canonical (x : F32) : Canonical (floor x) := by
  unfold floor
  split_ifs with _ hinf
  · exact canonical_nan
  · exact canonical_infinite hinf
  · exact integral_canonical x _

theorem ceil_canonical (x : F32) : Canonical (ceil x) := by
  unfold ceil
  split_ifs with _ hinf
  · exact canonical_nan
  · exact canonical_infinite hinf
  · exact integral_canonical x _

theorem neg_of_isNaN {x : F32} (h : isNaN x = true) : neg x = nan := if_pos h

theorem neg_of_not_isNaN {x : F32} (h : isNaN x = false) : neg x = pack (!sign x) (mag x) := by simp [neg, h]

theorem mag_neg {x : F32} (h : isNaN x = false) : mag (neg x) = mag x := by
  rw [neg_of_not_isNaN h, mag_pack _ (mag_lt x)]

theorem sign_neg {x : F32} (h : isNaN x = false) : sign (neg x) = !sign x := by
  rw [neg_of_not_isNaN h, sign_pack _ (mag_lt x)]

@[simp] theorem isNaN_neg (x : F32) : isNaN (neg x) = isNaN x := by
  cases h : isNaN x with
  | true =>
    rw [neg_of_isNaN h]
    rfl
  | false => rw [isNaN, mag_neg h, ← isNaN, h]

theorem neg_canonical (x : F32) : Canonical (neg x) := by
  cases h : isNaN x with
  | true =>
    rw [neg_of_isNaN h]
    exact canonical_nan
  | false => exact .of_not_isNaN ((isNaN_neg x).trans h)

/-- Two sign flips of a value that is no NaN give it back. -/
theorem neg_neg_of_not_isNaN {x : F32} (h : isNaN x = false) : neg (neg x) = x := by
  have hn : isNaN (neg x) = false := (isNaN_neg x).trans h
  apply ext_parts
  · rw [sign_neg hn, sign_neg h, Bool.not_not]
  · rw [mag_neg hn, mag_neg h]

/-! ## Values that binary32 holds exactly -/

theorem val_of_isZero {x : F32} (h : isZero x = true) : val x = 0 := by
  simp [val, units_eq_zero.mpr (of_decide_eq_true h)]

theorem units_congr {x y : F32} (h : mag x = mag y) : units x = units y := by rw [units_eq, units_eq, h]

/-- The comparison key orders the values that are no NaN as `val` does. -/
theorem val_le_val {x y : F32} (hx : isNaN x = false) (hy : isNaN y = false) : val x ≤ val y ↔ key x ≤ key y := by
  have hxy := units_le_units (isNaN_eq_false.mp hx) (isNaN_eq_false.mp hy)
  have hyx := units_le_units (isNaN_eq_false.mp hy) (isNaN_eq_false.mp hx)
  have hx0 := units_eq_zero (x := x)
  have hy0 := units_eq_zero (x := y)
  unfold val key
  cases sign x <;> cases sign y <;> simp only [if_true, if_false, Bool.false_eq_true] <;> omega

/-- A value is in [0, 1) just when its `val` is in [0, 2^149). -/
theorem inUnit_iff_val {x : F32} (h : isNaN x = false) : inUnit x = true ↔ 0 ≤ val x ∧ val x < 2 ^ 149 := by
  have hzero : isNaN pos0 = false ∧ val pos0 = 0 := by decide
  have hone : isNaN one = false ∧ val one = 2 ^ 149 := by decide
  rw [inUnit, Bool.and_eq_true, ge_iff, le_iff, lt_iff, ← val_le_val hzero.1 h, ← Int.not_le,
    ← val_le_val hone.1 h, hzero.2, hone.2, Int.not_le]
  simp only [hzero.1, hone.1, h, true_and]

/-- Some finite binary32 has a magnitude of `n` units of 2^-149. -/
def Representable (n : Nat) : Prop := ∃ x : F32, isFinite x = true ∧ units x = n

/-- The binary32 patterns hold every number of at most 24 significant bits at every scale of the finite range. -/
theorem representable_scaled {m : Nat} (hm : m < 2 ^ 24) {e : Nat} (he : e ≤ 253) : Representable (m * 2 ^ e) := by
  induction e generalizing m with
  | zero =>
    have hmag : mag (pack false m) = m := mag_pack false (by omega)
    refine ⟨pack false m, isFinite_iff.mpr (by rw [hmag, infMag]; omega), ?_⟩
    rw [units_eq, hmag]
    split
    case isTrue => omega
    case isFalse =>
      have hexp : m / 2 ^ 23 - 1 = 0 := by omega
      have hfrac : 2 ^ 23 + m % 2 ^ 23 = m := by omega
      rw [hexp, hfrac]
  | succ e ih =>
    by_cases hsmall : m < 2 ^ 23
    · have hdouble := ih (m := m * 2) (by omega) (by omega)
      rwa [Nat.mul_assoc, ← Nat.pow_succ'] at hdouble
    · have hmag : mag (pack false ((e + 1) * 2 ^ 23 + m)) = (e + 1) * 2 ^ 23 + m := mag_pack false (by omega)
      have hexp : ((e + 1) * 2 ^ 23 + m) / 2 ^ 23 - 1 = e + 1 := by omega
      have hfrac : 2 ^ 23 + ((e + 1) * 2 ^ 23 + m) % 2 ^ 23 = m := by omega
      refine ⟨pack false ((e + 1) * 2 ^ 23 + m), isFinite_iff.mpr (by rw [hmag, infMag]; omega), ?_⟩
      rw [units_eq, hmag, if_neg (by omega), hexp, hfrac]

/-- A magnitude is representable just when it has at most 24 significant bits at a scale of the finite range. -/
theorem representable_iff {n : Nat} : Representable n ↔ ∃ m e, m < 2 ^ 24 ∧ e ≤ 253 ∧ n = m * 2 ^ e := by
  constructor
  · rintro ⟨x, hx, rfl⟩
    have hmag : mag x < 0x7F800000 := isFinite_iff.mp hx
    rw [units_eq]
    split
    · exact ⟨mag x, 0, by omega, by omega, by rw [Nat.pow_zero, Nat.mul_one]⟩
    · exact ⟨2 ^ 23 + mag x % 2 ^ 23, mag x / 2 ^ 23 - 1, by omega, by omega, rfl⟩
  · rintro ⟨m, e, hm, he, rfl⟩
    exact representable_scaled hm he

/-- Clearing the low bits of a representable magnitude leaves one, and so do those bits alone. -/
theorem Representable.div_mod {n : Nat} (h : Representable n) {c : Nat} (hc : c ≤ 253) :
    Representable (n / 2 ^ c * 2 ^ c) ∧ Representable (n % 2 ^ c) := by
  obtain ⟨m, e, hm, he, rfl⟩ := representable_iff.mp h
  rcases Nat.le_total c e with hce | hec
  · have hdvd : 2 ^ c ∣ m * 2 ^ e := Dvd.dvd.mul_left (Nat.pow_dvd_pow 2 hce) m
    rw [Nat.div_mul_cancel hdvd, Nat.mod_eq_zero_of_dvd hdvd]
    exact ⟨h, representable_iff.mpr ⟨0, 0, by decide, by decide, rfl⟩⟩
  · have hsplit : 2 ^ c = 2 ^ (c - e) * 2 ^ e := by rw [← Nat.pow_add, Nat.sub_add_cancel hec]
    have hdiv : m * 2 ^ e / 2 ^ c = m / 2 ^ (c - e) := by
      rw [hsplit, Nat.mul_div_mul_right _ _ (Nat.two_pow_pos e)]
    have hmod : m * 2 ^ e % 2 ^ c = m % 2 ^ (c - e) * 2 ^ e := by rw [hsplit, Nat.mul_mod_mul_right]
    rw [hdiv, hmod]
    exact ⟨representable_scaled (Nat.lt_of_le_of_lt (Nat.div_le_self _ _) hm) hc,
      representable_scaled (Nat.lt_of_le_of_lt (Nat.mod_le _ _) hm) he⟩

/-- The finite value of `v` units: what an exact operation delivers. -/
def HasVal (x : F32) (v : Int) : Prop := isFinite x = true ∧ val x = v

/-- A representable magnitude is rounded to itself. -/
theorem hasVal_rounded (s : Bool) {n : Nat} (h : Representable n) :
    HasVal (pack s (roundMag n 1)) (if s then -(n : Int) else n) := by
  obtain ⟨x, hx, rfl⟩ := h
  have hfin := isFinite_iff.mp hx
  have hmag : mag (pack s (mag x)) = mag x := mag_pack s (mag_lt x)
  rw [roundMag_units (Nat.le_of_lt hfin)]
  refine ⟨isFinite_iff.mpr (hmag.symm ▸ hfin), ?_⟩
  rw [val, sign_pack s (mag_lt x), units_congr hmag]

theorem hasVal_zero (s : Bool) : HasVal (pack s 0) 0 := by cases s <;> exact ⟨rfl, rfl⟩

/-- The sign and magnitude of a whole number of units give it back. -/
theorem hasVal_rounded_int {v : Int} (h : Representable v.natAbs) :
    HasVal (pack (decide (v < 0)) (roundMag v.natAbs 1)) v := by
  have hv : (if decide (v < 0) then -(v.natAbs : Int) else v.natAbs) = v := by
    simp only [decide_eq_true_eq]
    split <;> omega
  obtain ⟨hfin, hval⟩ := hasVal_rounded (decide (v < 0)) h
  exact ⟨hfin, hval.trans hv⟩

theorem HasVal.neg {x : F32} {v : Int} (h : HasVal x v) : HasVal (Fp.neg x) (-v) := by
  obtain ⟨hfin, rfl⟩ := h
  have hmag := mag_neg (isNaN_of_isFinite hfin)
  refine ⟨isFinite_iff.mpr (hmag ▸ isFinite_iff.mp hfin), ?_⟩
  rw [val, sign_neg (isNaN_of_isFinite hfin), units_congr hmag, val]
  cases sign x <;> simp

/-- A sum that binary32 holds is exact (R251). -/
theorem HasVal.add {x y : F32} {v w : Int} (hx : HasVal x v) (hy : HasVal y w) (h : Representable (v + w).natAbs) :
    HasVal (Fp.add x y) (v + w) := by
  obtain ⟨hxfin, rfl⟩ := hx
  obtain ⟨hyfin, rfl⟩ := hy
  simp only [Fp.add, isNaN_of_isFinite hxfin, isNaN_of_isFinite hyfin, isInf_of_isFinite hxfin,
    isInf_of_isFinite hyfin, Bool.or_self, Bool.false_eq_true, if_false]
  split
  case isTrue hsum =>
    rw [hsum]
    exact hasVal_zero _
  case isFalse => exact hasVal_rounded_int h

/-- A difference that binary32 holds is exact (R251). -/
theorem HasVal.sub {x y : F32} {v w : Int} (hx : HasVal x v) (hy : HasVal y w) (h : Representable (v - w).natAbs) :
    HasVal (Fp.sub x y) (v - w) := by
  rw [Int.sub_eq_add_neg] at h ⊢
  exact hx.add hy.neg h

/-- A whole number that binary32 holds is converted exactly (R257, R258). -/
theorem hasVal_integral (x : F32) {k : Int} (h : Representable (k * 2 ^ 149).natAbs) :
    HasVal (integral x k) (k * 2 ^ 149) := by
  unfold integral ofInt
  split
  case isTrue hk =>
    rw [hk, Int.zero_mul]
    exact hasVal_zero _
  case isFalse =>
    have hsign : (k < 0) = (k * 2 ^ 149 < 0) := by rw [eq_iff_iff]; omega
    have habs : k.natAbs * 2 ^ 149 = (k * 2 ^ 149).natAbs := by omega
    simp only [habs, hsign]
    exact hasVal_rounded_int h

/-! ## The phase wrap (R259) -/

/-- The floor of a finite value with the sign bit clear is exact (R257). -/
theorem hasVal_floor {p : F32} (hfin : isFinite p = true) (hsign : sign p = false) :
    HasVal (floor p) (val p / 2 ^ 149 * 2 ^ 149) := by
  have hval : val p = units p := by simp [val, hsign]
  have hrep : Representable (units p / 2 ^ 149 * 2 ^ 149) :=
    (Representable.div_mod ⟨p, hfin, rfl⟩ (by decide)).1
  have habs : (val p / 2 ^ 149 * 2 ^ 149).natAbs = units p / 2 ^ 149 * 2 ^ 149 := by rw [hval]; omega
  simp only [floor, isNaN_of_isFinite hfin, isInf_of_isFinite hfin, Bool.false_eq_true, if_false]
  exact hasVal_integral p (habs ▸ hrep)

/-- The guard of `wrap` lets a value in [0, 1) pass. -/
theorem wrapGuard_of_inUnit {q : F32} (h : inUnit q = true) : wrapGuard q = q := if_pos h

/-- Subtracting the floor leaves the fractional part, which binary32 holds and the guard lets pass. -/
theorem hasVal_wrap {p : F32} (hfin : isFinite p = true) (hsign : sign p = false) :
    HasVal (wrap p) (val p % 2 ^ 149) := by
  have hval : val p = units p := by simp [val, hsign]
  have hrep : Representable (units p % 2 ^ 149) := (Representable.div_mod ⟨p, hfin, rfl⟩ (by decide)).2
  have hfrac : val p - val p / 2 ^ 149 * 2 ^ 149 = val p % 2 ^ 149 := by omega
  have habs : (val p % 2 ^ 149).natAbs = units p % 2 ^ 149 := by rw [hval]; omega
  have hsub : HasVal (sub p (floor p)) (val p % 2 ^ 149) := by
    rw [← hfrac]
    refine HasVal.sub ⟨hfin, rfl⟩ (hasVal_floor hfin hsign) ?_
    rwa [hfrac, habs]
  obtain ⟨hsubfin, hsubval⟩ := hsub
  have hunit : inUnit (sub p (floor p)) = true :=
    (inUnit_iff_val (isNaN_of_isFinite hsubfin)).mpr (by omega)
  rw [wrap, wrapGuard_of_inUnit hunit]
  exact ⟨hsubfin, hsubval⟩

/-- Settles O52: the fractional part by `hasVal_wrap`, the band by the guard of `wrap`. -/
theorem wrapIsTheFractionalPart : Obligations.WrapIsTheFractionalPart :=
  ⟨fun _ hfin hsign => (hasVal_wrap hfin hsign).2, inUnit_wrap⟩

end Sys2Proof.Machine.Fp

namespace Sys2Proof.Machine

open Fp (Canonical canonical_nan)

/-! ## What wraps the open functions (R253, R263) -/

theorem canon_canonical (x : F32) : Canonical (canon x) := by
  unfold canon
  split
  case isTrue => exact canonical_nan
  case isFalse h => exact .of_not_isNaN (Bool.eq_false_iff.mpr h)

theorem mag_bounded_le (x : F32) : Fp.mag (bounded x) ≤ Fp.mag Fp.one := by
  unfold bounded
  split
  case isTrue h => exact h
  case isFalse => exact Nat.le_refl _

@[simp] theorem isNaN_bounded (x : F32) : Fp.isNaN (bounded x) = false :=
  Fp.isNaN_eq_false.mpr (Nat.le_trans (mag_bounded_le x) (by decide))

/-- A value is in [-1, 1] just when its magnitude is at most that of `1.0`. -/
theorem inBand_iff_mag {x : F32} : inBand x = true ↔ Fp.mag x ≤ Fp.mag Fp.one := by
  have hone : Fp.isNaN Fp.one = false ∧ Fp.key Fp.one = Fp.mag Fp.one := by decide
  have hneg : Fp.isNaN Fp.negOne = false ∧ Fp.key Fp.negOne = -(Fp.mag Fp.one : Int) := by decide
  have hfin : Fp.mag Fp.one ≤ Fp.infMag := by decide
  rw [inBand, Bool.and_eq_true, Fp.ge_iff, Fp.le_iff, Fp.le_iff, hone.1, hone.2, hneg.1, hneg.2, Fp.isNaN_eq_false,
    Fp.key]
  generalize Fp.mag Fp.one = b at *
  cases Fp.sign x <;> simp only [if_true, if_false, Bool.false_eq_true, true_and] <;> omega

/-! ## FN_POW (R262) -/

section
variable (raw : F32 → F32 → F32) {x y : F32}

theorem powWith_canonical (x y : F32) : Canonical (powWith raw x y) := by
  unfold powWith
  split_ifs
  · exact .of_not_isNaN rfl
  · exact .of_not_isNaN rfl
  · exact canonical_nan
  · exact Fp.canonical_inf false
  · exact .of_not_isNaN rfl
  · exact canonical_nan
  · exact canon_canonical _

theorem powWith_zero (h : Fp.isZero y = true) : powWith raw x y = Fp.one := if_pos h

theorem powWith_one : powWith raw Fp.one y = Fp.one := by simp [powWith]

/-- A NaN operand gives NaN where neither a zero exponent nor the base `1.0` decides first. -/
theorem powWith_nan (hy : Fp.isZero y = false) (hx : x ≠ Fp.one) (h : Fp.isNaN x = true ∨ Fp.isNaN y = true) :
    powWith raw x y = Fp.nan := by
  have hnan : (Fp.isNaN x || Fp.isNaN y) = true := by simpa using h
  simp [powWith, hy, hx, hnan]

/-- A zero base gives a zero or an infinity by the sign of the exponent. -/
theorem powWith_zeroBase (hx : Fp.isZero x = true) (hy : Fp.isZero y = false) (hnan : Fp.isNaN y = false) :
    powWith raw x y = if Fp.sign y then Fp.inf false else Fp.pos0 := by
  have hmag : Fp.mag x = 0 := of_decide_eq_true hx
  have hone : x ≠ Fp.one := ne_of_apply_ne Fp.isZero (by rw [hx]; decide)
  have hxnan : Fp.isNaN x = false := Fp.isNaN_eq_false.mpr (by simp [hmag])
  simp [powWith, hx, hy, hone, hxnan, hnan]

/-- A negative finite base with a finite exponent that is no whole number gives NaN. -/
theorem powWith_negativeBase (hx : Fp.isFinite x = true) (hneg : Fp.lt x Fp.pos0 = true) (hy : Fp.isFinite y = true)
    (hfrac : Fp.val y % 2 ^ 149 ≠ 0) : powWith raw x y = Fp.nan := by
  obtain ⟨hxnan, hxzero, hsign⟩ := Fp.lt_pos0_iff.mp hneg
  have hone : x ≠ Fp.one := ne_of_apply_ne Fp.sign (by rw [hsign]; decide)
  have hyzero : Fp.isZero y = false := Bool.eq_false_iff.mpr fun hz => hfrac (by rw [Fp.val_of_isZero hz]; rfl)
  have hwhole : isWhole y = false := by rw [isWhole, decide_eq_false hfrac, Bool.and_false]
  simp [powWith, hyzero, hone, hxnan, Fp.isNaN_of_isFinite hy, hxzero, hx, hsign, hy, hwhole]

end

/-! ## FN_EXP, FN_TANH and FN_SIN (R263) -/

section
variable (raw : F32 → F32) {x : F32}

theorem expWith_canonical (x : F32) : Canonical (expWith raw x) := by
  unfold expWith
  split_ifs
  · exact canonical_nan
  · exact .of_not_isNaN rfl
  · exact Fp.canonical_inf false
  · exact .of_not_isNaN rfl
  · exact canon_canonical _

theorem expWith_nan (h : Fp.isNaN x = true) : expWith raw x = Fp.nan := if_pos h

theorem expWith_inf (h : Fp.isInf x = true) :
    expWith raw x = if Fp.sign x then Fp.pos0 else Fp.inf false := by
  simp [expWith, Fp.isNaN_of_isInf h, h]

theorem sinWith_nan (h : Fp.isNaN x = true) : sinWith raw x = Fp.nan := by simp [sinWith, h]

theorem sinWith_inf (h : Fp.isInf x = true) : sinWith raw x = Fp.nan := by simp [sinWith, h]

theorem sinWith_finite (h : Fp.isFinite x = true) : sinWith raw x = bounded (raw x) := by
  simp [sinWith, Fp.isNaN_of_isFinite h, Fp.isInf_of_isFinite h]

/-- `|FN_SIN(x)| <= 1` for every finite `x` (R263). -/
theorem inBand_sinWith (h : Fp.isFinite x = true) : inBand (sinWith raw x) = true := by
  rw [inBand_iff_mag, sinWith_finite raw h]
  exact mag_bounded_le _

theorem sinWith_canonical (x : F32) : Canonical (sinWith raw x) := by
  unfold sinWith
  split
  · exact canonical_nan
  · exact .of_not_isNaN (isNaN_bounded _)

/-- What `FN_TANH` gives at the magnitude of its operand; `tanhWith` adds the operand's sign. -/
def tanhMag (x : F32) : F32 := if Fp.isInf x then Fp.one else bounded (raw (Fp.pack false (Fp.mag x)))

theorem tanhWith_nan (h : Fp.isNaN x = true) : tanhWith raw x = Fp.nan := if_pos h

theorem tanhWith_eq (h : Fp.isNaN x = false) :
    tanhWith raw x = if Fp.sign x then Fp.neg (tanhMag raw x) else tanhMag raw x := by
  simp [tanhWith, tanhMag, h]

theorem tanhMag_congr {x y : F32} (h : Fp.mag x = Fp.mag y) : tanhMag raw x = tanhMag raw y := by
  rw [tanhMag, tanhMag, Fp.isInf, Fp.isInf, h]

theorem mag_tanhMag_le (x : F32) : Fp.mag (tanhMag raw x) ≤ Fp.mag Fp.one := by
  unfold tanhMag
  split
  · exact Nat.le_refl _
  · exact mag_bounded_le _

theorem isNaN_tanhMag (x : F32) : Fp.isNaN (tanhMag raw x) = false :=
  Fp.isNaN_eq_false.mpr (Nat.le_trans (mag_tanhMag_le raw x) (by decide))

/-- `|FN_TANH(x)| <= 1` for every `x` that is no NaN (R263). -/
theorem inBand_tanhWith (h : Fp.isNaN x = false) : inBand (tanhWith raw x) = true := by
  rw [inBand_iff_mag, tanhWith_eq raw h]
  split
  · rw [Fp.mag_neg (isNaN_tanhMag raw x)]
    exact mag_tanhMag_le raw x
  · exact mag_tanhMag_le raw x

theorem tanhWith_canonical (x : F32) : Canonical (tanhWith raw x) := by
  cases h : Fp.isNaN x with
  | true =>
    rw [tanhWith_nan raw h]
    exact canonical_nan
  | false =>
    have hmag := inBand_iff_mag.mp (inBand_tanhWith raw h)
    exact .of_not_isNaN (Fp.isNaN_eq_false.mpr (Nat.le_trans hmag (by decide)))

/-- `FN_TANH` is odd (R263): the operand's sign flips the sign of the same value. -/
theorem tanhWith_neg (x : F32) : tanhWith raw (Fp.neg x) = Fp.neg (tanhWith raw x) := by
  cases h : Fp.isNaN x with
  | true =>
    rw [tanhWith_nan raw h, tanhWith_nan raw ((Fp.isNaN_neg x).trans h)]
    rfl
  | false =>
    rw [tanhWith_eq raw h, tanhWith_eq raw ((Fp.isNaN_neg x).trans h), Fp.sign_neg h, tanhMag_congr raw (Fp.mag_neg h)]
    cases Fp.sign x with
    | true => exact (Fp.neg_neg_of_not_isNaN (isNaN_tanhMag raw x)).symm
    | false => rfl

end

/-- Settles O50: each operation's branches deliver the canonical NaN, an infinity, a zero, a rounded magnitude or a
value that is no NaN. -/
theorem nanResultsAreCanonical : Obligations.NaNResultsAreCanonical := fun x y =>
  ⟨Fp.add_canonical x y, Fp.add_canonical x (Fp.neg y), Fp.mul_canonical x y, Fp.div_canonical x y,
    Fp.floor_canonical x, Fp.ceil_canonical x, Fp.neg_canonical x, powWith_canonical _ x y, expWith_canonical _ x,
    tanhWith_canonical _ x, sinWith_canonical _ x⟩

/-- Settles O53: each constraint is a branch of the wrapper around the raw function. -/
theorem openFunctionsMeetTheirConstraints : Obligations.OpenFunctionsMeetTheirConstraints := by
  refine ⟨fun x y => powWith_zero _, fun y => powWith_one _, ?powPos, ?powNeg, ?powFrac, ?powNaN,
    ?expNegInf, ?expInf, ?tanhInf, ?tanhNegInf, tanhWith_neg _, fun x => inBand_tanhWith _,
    fun x => inBand_sinWith _, ?sinInf, ?nans⟩
  case powPos =>
    intro x y hx hy
    obtain ⟨hnan, hzero, hsign⟩ := Fp.gt_pos0_iff.mp hy
    exact (powWith_zeroBase _ hx hzero hnan).trans (by rw [hsign]; rfl)
  case powNeg =>
    intro x y hx hy
    obtain ⟨hnan, hzero, hsign⟩ := Fp.lt_pos0_iff.mp hy
    exact (powWith_zeroBase _ hx hzero hnan).trans (by rw [hsign]; rfl)
  case powFrac =>
    intro x y hx hneg hy hfrac
    exact congrArg Fp.isNaN (powWith_negativeBase _ hx hneg hy hfrac)
  case powNaN =>
    rintro x y (⟨hx, hy⟩ | ⟨hy, hx⟩)
    · have hone : x ≠ Fp.one := ne_of_apply_ne Fp.isNaN (by rw [hx]; decide)
      exact congrArg Fp.isNaN (powWith_nan _ hy hone (.inl hx))
    · exact congrArg Fp.isNaN (powWith_nan _ (Fp.isZero_of_isNaN hy) hx (.inr hy))
  case expNegInf => exact expWith_inf (x := 0xFF800000#32) Config.rawExp rfl
  case expInf => exact expWith_inf (x := 0x7F800000#32) Config.rawExp rfl
  case tanhInf => exact tanhWith_eq (x := 0x7F800000#32) Config.rawTanh rfl
  case tanhNegInf => exact tanhWith_eq (x := 0xFF800000#32) Config.rawTanh rfl
  case sinInf => exact fun x hx => congrArg Fp.isNaN (sinWith_inf _ hx)
  case nans =>
    intro x hx
    exact ⟨congrArg Fp.isNaN (expWith_nan _ hx), congrArg Fp.isNaN (tanhWith_nan _ hx),
      congrArg Fp.isNaN (sinWith_nan _ hx)⟩

end Sys2Proof.Machine

end

/-! # The envelope (41_envelope.md)

Proofs of the obligations on the envelope: each branch of R301 and R305 is an equation, the arithmetic of TIME 0 and of
the later times is said once, and the obligations are read off. -/

section

namespace Sys2Proof.Machine.Fp

/-! ## Signs of sums and of times (R251, R260) -/

/-- A value that is neither NaN nor negative is at least 0. -/
theorem val_nonneg {x : F32} (hx : isNaN x = false) (h : lt x pos0 = false) : 0 ≤ val x := by
  have hzero : isNaN pos0 = false ∧ val pos0 = 0 := by decide
  have hle : le pos0 x = true := (not_lt_iff_le hzero.1 hx).mp (by simp [h])
  obtain ⟨-, -, hkey⟩ := le_iff.mp hle
  rw [← hzero.2]
  exact (val_le_val hzero.1 hx).mpr hkey

/-- A value above 0 is not below it. -/
theorem not_lt_pos0_of_gt {x : F32} (h : gt x pos0 = true) : lt x pos0 = false := by
  obtain ⟨-, -, hsign⟩ := gt_pos0_iff.mp h
  simp [← Bool.not_eq_true, lt_pos0_iff, hsign]

/-- A sum of two values that are not below 0 is not below 0; it may be NaN. -/
theorem not_lt_pos0_add {x y : F32} (hx : lt x pos0 = false) (hy : lt y pos0 = false) :
    lt (add x y) pos0 = false := by
  have hnan : lt nan pos0 = false := by decide
  unfold add
  split
  case isTrue => exact hnan
  case isFalse hnn =>
    obtain ⟨hxn, hyn⟩ : isNaN x = false ∧ isNaN y = false := by simpa using hnn
    have hsum : ¬ val x + val y < 0 := Int.not_lt.mpr (Int.add_nonneg (val_nonneg hxn hx) (val_nonneg hyn hy))
    split_ifs with hxinf hopposite hyinf hzero
    · exact hnan
    · exact hx
    · exact hy
    · cases sign x && sign y <;> decide
    · simp [← Bool.not_eq_true, lt_pos0_iff, sign_pack _ (roundMag_lt _ _), hsum]

@[simp] theorem sec_zero : sec 0#32 = pos0 := by decide

/-- A count of at least 1 is converted to a finite value of at least 1.0 (R258). -/
theorem ofU32_pos {n : U32} (hn : n ≠ 0#32) :
    isFinite (ofU32 n) = true ∧ sign (ofU32 n) = false ∧ 2 ^ 149 ≤ units (ofU32 n) := by
  have hpos : 0 < n.toNat := Nat.pos_of_ne_zero fun h => hn (BitVec.eq_of_toNat_eq h)
  have hbound := n.isLt
  have hone : mag one ≤ infMag ∧ units one = 2 ^ 149 := by decide
  have hmax : mag 0x4F800000#32 < infMag ∧ units 0x4F800000#32 = 2 ^ 32 * 2 ^ 149 := by decide
  have hneg : ¬ (n.toNat : Int) < 0 := Int.not_lt.mpr (Int.natCast_nonneg _)
  have heq : ofU32 n = pack false (roundMag (n.toNat * 2 ^ 149) 1) := by
    rw [ofU32, ofInt, decide_eq_false hneg, Int.natAbs_natCast]
  have hmag : mag (ofU32 n) = roundMag (n.toNat * 2 ^ 149) 1 := by rw [heq, mag_pack _ (roundMag_lt _ _)]
  have hhi : mag (ofU32 n) ≤ mag 0x4F800000#32 :=
    hmag ▸ roundMag_le_mag Nat.one_pos (Nat.le_of_lt hmax.1) (by rw [hmax.2]; omega)
  have hlo : mag one ≤ mag (ofU32 n) := hmag ▸ mag_le_roundMag Nat.one_pos hone.1 (by rw [hone.2]; omega)
  have hfin : mag (ofU32 n) < infMag := Nat.lt_of_le_of_lt hhi hmax.1
  refine ⟨isFinite_iff.mpr hfin, by rw [heq, sign_pack _ (roundMag_lt _ _)], ?_⟩
  rw [← hone.2]
  exact (units_le_units hone.1 (Nat.le_of_lt hfin)).mpr hlo

/-- A finite value over a finite value that is not zero is the rounded quotient (R251). -/
theorem div_of_isFinite {x y : F32} (hx : isFinite x = true) (hy : isFinite y = true) (hzero : isZero y = false) :
    div x y = pack (sign x != sign y) (roundMag (units x * 2 ^ 149) (units y)) := by
  simp [div, isNaN_of_isFinite hx, isNaN_of_isFinite hy, isInf_of_isFinite hx, isInf_of_isFinite hy, hzero]

/-- From one sample on the time in seconds is positive (R303). -/
theorem gt_sec_pos0 {n : U32} (hn : n ≠ 0#32) : gt (sec n) pos0 = true := by
  obtain ⟨hfin, hsign, hunits⟩ := ofU32_pos hn
  have hrate : isFinite rate = true ∧ isZero rate = false ∧ sign rate = false ∧ units rate ≤ 2 ^ 149 * 2 ^ 149 ∧
      0 < units rate := by decide
  obtain ⟨hrfin, hrzero, hrsign, hrle, hrpos⟩ := hrate
  have hleast : mag 1#32 = 1 ∧ units 1#32 = 1 := by decide
  have hround : 1 ≤ roundMag (units (ofU32 n) * 2 ^ 149) (units rate) :=
    hleast.1 ▸ mag_le_roundMag hrpos (by decide) (by
      rw [hleast.2, Nat.one_mul]
      exact Nat.le_trans hrle (Nat.mul_le_mul_right _ hunits))
  rw [sec, div_of_isFinite hfin hrfin hrzero, hsign, hrsign, gt_pos0_iff]
  refine ⟨isNaN_pack _ (roundMag_le _ _), ?_, sign_pack _ (roundMag_lt _ _)⟩
  rw [isZero, mag_pack _ (roundMag_lt _ _)]
  exact decide_eq_false (by omega)

/-! ## The interpolation at its start (R15, R303) -/

/-- Two values that are no NaN compare equal just when their `val`s are equal. -/
theorem eq_iff_val {x y : F32} (hx : isNaN x = false) (hy : isNaN y = false) : eq x y = true ↔ val x = val y := by
  have hxy := val_le_val hx hy
  have hyx := val_le_val hy hx
  simp only [eq, hx, hy, Bool.not_false, Bool.true_and, decide_eq_true_eq]
  omega

theorem natAbs_val (x : F32) : (val x).natAbs = units x := by
  unfold val
  split <;> simp

/-- Adding a zero of either sign keeps a finite value. -/
theorem HasVal.add_zero {x z : F32} (hx : isFinite x = true) (hz : HasVal z 0) : HasVal (Fp.add x z) (val x) := by
  have hrep : Representable (val x + 0).natAbs := ⟨x, hx, by rw [Int.add_zero, natAbs_val]⟩
  simpa using HasVal.add ⟨hx, rfl⟩ hz hrep

/-- A positive divisor, even an infinite one, divides `+0.0` to `+0.0`. -/
theorem div_pos0 {y : F32} (hy : gt y pos0 = true) : div pos0 y = pos0 := by
  obtain ⟨hnan, hzero, hsign⟩ := gt_pos0_iff.mp hy
  have h0 : isNaN pos0 = false ∧ isInf pos0 = false ∧ sign pos0 = false ∧ units pos0 = 0 ∧ pack false 0 = pos0 := by
    decide
  obtain ⟨h0nan, h0inf, h0sign, h0units, h0pack⟩ := h0
  simp [div, hnan, hzero, hsign, h0nan, h0inf, h0sign, h0units, h0pack]

/-- A finite value times `+0.0` is a zero. -/
theorem hasVal_mul_pos0 {x : F32} (hx : isFinite x = true) : HasVal (mul x pos0) 0 := by
  have h0 : isNaN pos0 = false ∧ isInf pos0 = false ∧ units pos0 = 0 := by decide
  obtain ⟨h0nan, h0inf, h0units⟩ := h0
  have hmul : mul x pos0 = pack (sign x != sign pos0) 0 := by
    simp [mul, isNaN_of_isFinite hx, isInf_of_isFinite hx, h0nan, h0inf, h0units]
  rw [hmul]
  exact hasVal_zero _

/-- The largest finite pattern. -/
def largest : F32 := 0x7F7FFFFF#32

/-- Adding 1.0 to the largest finite value rounds back to it, so no sum of a finite value and ±1.0 overflows. -/
theorem isFinite_rounded_of_le {n : Nat} (s : Bool) (h : n ≤ units largest + 2 ^ 149) :
    isFinite (pack s (roundMag n 1)) = true := by
  have hlargest : roundMag (units largest + 2 ^ 149) 1 < infMag := by decide
  rw [isFinite_iff, mag_pack _ (roundMag_lt _ _)]
  exact Nat.lt_of_le_of_lt (roundMag_mono Nat.one_pos Nat.one_pos (by omega)) hlargest

theorem units_le_largest {x : F32} (hx : isFinite x = true) : units x ≤ units largest := by
  have hmag : mag largest = infMag - 1 := by decide
  have hfin := isFinite_iff.mp hx
  exact (units_le_units (Nat.le_of_lt hfin) (by omega)).mpr (by omega)

/-- The distance of a finite value from 1.0 is finite. -/
theorem isFinite_one_sub {x : F32} (hx : isFinite x = true) : isFinite (sub one x) = true := by
  have hone : isNaN one = false ∧ isInf one = false ∧ val one = 2 ^ 149 := by decide
  obtain ⟨h1nan, h1inf, h1val⟩ := hone
  obtain ⟨hnfin, hnval⟩ := HasVal.neg ⟨hx, rfl⟩
  have habs := natAbs_val x
  have hle := units_le_largest hx
  simp only [sub, add, h1nan, h1inf, isNaN_of_isFinite hnfin, isInf_of_isFinite hnfin, Bool.or_self,
    Bool.false_eq_true, if_false, h1val, hnval]
  split
  · exact (hasVal_zero _).1
  · exact isFinite_rounded_of_le _ (by omega)

/-- Interpolating from a finite value to 1.0 starts at that value. -/
theorem eq_lerp_start {x : F32} (hx : isFinite x = true) : eq (lerp x one pos0) x = true := by
  obtain ⟨hfin, hval⟩ := HasVal.add_zero hx (hasVal_mul_pos0 (isFinite_one_sub hx))
  exact (eq_iff_val (isNaN_of_isFinite hfin) (isNaN_of_isFinite hx)).mpr hval

end Sys2Proof.Machine.Fp

namespace Sys2Proof.Machine

/-! ## The branches (R301, R305) -/

section

variable {e : EnvCfg} {saved t : F32}

theorem envHeld_sustain (h : Fp.gt t (Fp.add e.attack e.decay) = true) : envHeld e saved t = e.sustain := if_pos h

theorem envHeld_decay (hwin : Fp.gt t (Fp.add e.attack e.decay) = false) (hatt : Fp.gt t e.attack = true)
    (hdec : Fp.gt e.decay Fp.pos0 = true) :
    envHeld e saved t = Fp.lerp Fp.one e.sustain (Fp.div (Fp.sub t e.attack) e.decay) := by
  simp [envHeld, hwin, hatt, hdec]

/-- Before the decay window, or without one, the attack decides. -/
theorem envHeld_attack (hwin : Fp.gt t (Fp.add e.attack e.decay) = false)
    (hdec : Fp.gt t e.attack = false ∨ Fp.gt e.decay Fp.pos0 = false) :
    envHeld e saved t =
      if Fp.gt e.attack Fp.pos0 then Fp.lerp saved Fp.one (Fp.div t e.attack) else Fp.pos0 := by
  rcases hdec with h | h <;> simp [envHeld, hwin, h]

theorem envReleased_tail (hrel : Fp.gt e.release Fp.pos0 = true)
    (hwin : Fp.lt t (Fp.mul e.release Fp.five) = true) :
    envReleased e saved t =
      (Fp.mul saved (Fp.sub Fp.one (Fp.div t (Fp.mul e.release Fp.five))), false) := by
  simp [envReleased, hrel, hwin]

theorem envReleased_expired
    (h : Fp.gt e.release Fp.pos0 = false ∨ Fp.lt t (Fp.mul e.release Fp.five) = false) :
    envReleased e saved t = (Fp.pos0, true) := by
  rcases h with h | h <;> simp [envReleased, h]

/-- At time 0, with an attack and a decay that are not negative, only the attack's sign decides (R303). -/
theorem envHeld_start (hatt : Fp.lt e.attack Fp.pos0 = false) (hdec : Fp.lt e.decay Fp.pos0 = false) :
    envHeld e saved Fp.pos0 =
      if Fp.gt e.attack Fp.pos0 then Fp.lerp saved Fp.one (Fp.div Fp.pos0 e.attack) else Fp.pos0 :=
  envHeld_attack (Fp.not_lt_pos0_add hatt hdec) (.inl hatt)

end

section

variable {c : Cfg} {v : Voice} {w : EnvSel}

theorem envEval_held (h : v.alive = true) :
    envEval c v w = (envHeld (envCfg c w) (savedValue v w) (Fp.sec v.time), false) := if_pos h

theorem envEval_released (h : v.alive = false) :
    envEval c v w = envReleased (envCfg c w) (savedValue v w) (Fp.sec (v.time - v.relTime)) := by
  simp [envEval, h]

theorem envCapture_died (h : v.died = true) : envCapture c v w = Fp.pos0 := if_pos h

theorem envCapture_of_not_died (h : v.died = false) : envCapture c v w = (envEval c v w).1 := by
  simp [envCapture, h]

end

/-- Settles O25: a held voice takes a branch of `envHeld`, any other a branch of `envReleased`. -/
theorem envelopeEvaluatesByBranch : Obligations.EnvelopeEvaluatesByBranch := by
  refine fun c v w => ⟨?sustain, ?decay, ?attack, ?zero, ?tail, ?expired⟩
  case sustain =>
    intro ha hwin
    rw [envEval_held ha, envHeld_sustain hwin]
  case decay =>
    intro ha hwin hatt hdec
    rw [envEval_held ha, envHeld_decay hwin hatt hdec]
  case attack =>
    intro ha hwin hdec hatt
    rw [envEval_held ha, envHeld_attack hwin hdec, if_pos hatt]
  case zero =>
    intro ha hwin hdec hatt
    rw [envEval_held ha, envHeld_attack hwin hdec, hatt]
    rfl
  case tail =>
    intro ha hrel hwin
    rw [envEval_released ha, envReleased_tail hrel hwin]
  case expired =>
    intro ha h
    exact (envEval_released ha).trans (envReleased_expired h)

/-- Settles O26: at TIME 0 the value is that of `envHeld_start`; from TIME 1 on the time exceeds a window of length 0. -/
theorem heldEnvelopeCorners : Obligations.HeldEnvelopeCorners := by
  intro c v w ha
  have hzero : Fp.lt 0#32 Fp.pos0 = false := by decide
  rw [envEval_held ha]
  refine ⟨?start, ?later, ?decayStart, ?attackStart⟩
  case start =>
    intro hatt hdec ht
    rw [ht, Fp.sec_zero, envHeld_start (hatt ▸ hzero) (hdec ▸ hzero), hatt]
    rfl
  case later =>
    intro hatt hdec ht
    refine envHeld_sustain ?_
    rw [hatt, hdec]
    exact Fp.gt_sec_pos0 ht
  case decayStart =>
    intro hatt hdec ht
    rw [ht, Fp.sec_zero, envHeld_start (hatt ▸ hzero) (Fp.not_lt_pos0_of_gt hdec), hatt]
    rfl
  case attackStart =>
    intro hatt hdec hsaved ht
    rw [ht, Fp.sec_zero, envHeld_start (Fp.not_lt_pos0_of_gt hatt) hdec, if_pos hatt, Fp.div_pos0 hatt]
    exact Fp.eq_lerp_start hsaved

/-- Settles O27: the two branches of the capture. -/
theorem captureOfDiedVoiceIsZero : Obligations.CaptureOfDiedVoiceIsZero :=
  fun _ _ _ => ⟨envCapture_died, envCapture_of_not_died⟩

end Sys2Proof.Machine

end

/-! # The LFO (42_lfo.md)

Proofs of the obligations on the waveforms, the random generator and the LFO value: what a rounded sum and product can
be is said once, and the bands and branches are read off. -/

section

namespace Sys2Proof.Machine.Fp

/-! ## Products that binary32 holds (R251) -/

/-- A finite product is the rounded product of the magnitudes (R251). -/
theorem mul_of_isFinite {x y : F32} (hx : isFinite x = true) (hy : isFinite y = true) :
    mul x y = pack (sign x != sign y) (roundMag (units x * units y) (2 ^ 149)) := by
  simp [mul, isNaN_of_isFinite hx, isNaN_of_isFinite hy, isInf_of_isFinite hx, isInf_of_isFinite hy]

/-- A finite product no larger than a binary32 magnitude rounds to at most it. -/
theorem mag_mul_le {x y z : F32} (hx : isFinite x = true) (hy : isFinite y = true) (hz : mag z ≤ infMag)
    (h : units x * units y ≤ units z * 2 ^ 149) : mag (mul x y) ≤ mag z := by
  rw [mul_of_isFinite hx hy, mag_pack _ (roundMag_lt _ _)]
  exact roundMag_le_mag (by decide) hz h

theorem val_mul_val (x y : F32) :
    val x * val y = if sign x != sign y then -((units x * units y : Nat) : Int) else (units x * units y : Nat) := by
  unfold val
  cases sign x <;> cases sign y <;> simp

/-- A product that binary32 holds is exact (R251). -/
theorem HasVal.mul {x y : F32} {v w u : Int} (hx : HasVal x v) (hy : HasVal y w) (hu : v * w = u * 2 ^ 149)
    (h : Representable u.natAbs) : HasVal (Fp.mul x y) u := by
  obtain ⟨hxfin, rfl⟩ := hx
  obtain ⟨hyfin, rfl⟩ := hy
  have hunits : units x * units y = u.natAbs * 2 ^ 149 := by
    rw [← natAbs_val x, ← natAbs_val y, ← Int.natAbs_mul, hu, Int.natAbs_mul]
    rfl
  have hround : roundMag (units x * units y) (2 ^ 149) = roundMag u.natAbs 1 := by
    rw [hunits]
    exact Nat.le_antisymm (roundMag_mono (by decide) (by decide) (by omega))
      (roundMag_mono (by decide) (by decide) (by omega))
  have hval : (if sign x != sign y then -(u.natAbs : Int) else u.natAbs) = u := by
    have hsign := (val_mul_val x y).symm.trans hu
    rw [hunits] at hsign
    split at hsign
    case isTrue hneg =>
      rw [if_pos hneg]
      omega
    case isFalse hpos =>
      rw [if_neg hpos]
      omega
  obtain ⟨hfin, hv⟩ := hasVal_rounded (sign x != sign y) h
  rw [mul_of_isFinite hxfin hyfin, hround]
  exact ⟨hfin, hv.trans hval⟩

/-- A magnitude below 1.0 may be scaled up by a power of two. -/
theorem Representable.mul_two_pow {n : Nat} (h : Representable n) (hn : n < 2 ^ 149) {k : Nat} (hk : k ≤ 104) :
    Representable (n * 2 ^ k) := by
  obtain ⟨m, e, hm, -, rfl⟩ := representable_iff.mp h
  rcases Nat.eq_zero_or_pos m with rfl | hpos
  · simpa using h
  · have he : e < 149 := (Nat.pow_lt_pow_iff_right (by decide : 1 < 2)).mp
      (Nat.lt_of_le_of_lt (Nat.le_mul_of_pos_left _ hpos) hn)
    rw [Nat.mul_assoc, ← Nat.pow_add]
    exact representable_scaled hm (by omega)

/-! ## Rounded sums between binary32 values (R251) -/

/-- The binary32 nearest to `v` units. -/
def rounded (v : Int) : F32 := pack (decide (v < 0)) (roundMag v.natAbs 1)

theorem key_rounded (v : Int) :
    key (rounded v) = if v < 0 then -(roundMag v.natAbs 1 : Int) else roundMag v.natAbs 1 := by
  simp [key, rounded, mag_pack _ (roundMag_lt _ _), sign_pack _ (roundMag_lt _ _)]

/-- Rounding keeps the order. -/
theorem key_rounded_mono {v w : Int} (h : v ≤ w) : key (rounded v) ≤ key (rounded w) := by
  have hup : v.natAbs ≤ w.natAbs → roundMag v.natAbs 1 ≤ roundMag w.natAbs 1 := fun hle =>
    roundMag_mono Nat.one_pos Nat.one_pos (by omega)
  have hdown : w.natAbs ≤ v.natAbs → roundMag w.natAbs 1 ≤ roundMag v.natAbs 1 := fun hle =>
    roundMag_mono Nat.one_pos Nat.one_pos (by omega)
  rw [key_rounded, key_rounded]
  split_ifs <;> omega

/-- Rounding keeps the order of a binary32 value. -/
theorem key_rounded_val {x : F32} (hx : isNaN x = false) : key (rounded (val x)) = key x := by
  have hunits := units_eq_zero (x := x)
  rw [key_rounded, natAbs_val, roundMag_units (isNaN_eq_false.mp hx), val, key]
  split_ifs <;> omega

/-- A finite sum is no NaN, and it is ordered as the rounded exact sum. -/
theorem HasVal.key_add {x y : F32} {v w : Int} (hx : HasVal x v) (hy : HasVal y w) :
    isNaN (Fp.add x y) = false ∧ key (Fp.add x y) = key (rounded (v + w)) := by
  obtain ⟨hxfin, rfl⟩ := hx
  obtain ⟨hyfin, rfl⟩ := hy
  simp only [Fp.add, isNaN_of_isFinite hxfin, isNaN_of_isFinite hyfin, isInf_of_isFinite hxfin,
    isInf_of_isFinite hyfin, Bool.or_self, Bool.false_eq_true, if_false]
  split
  case isTrue hsum =>
    rw [hsum]
    cases sign x && sign y <;> decide
  case isFalse => exact ⟨isNaN_pack _ (roundMag_le _ _), rfl⟩

/-- A difference at least a binary32 value rounds to at least it. -/
theorem HasVal.le_sub {x y z : F32} {v w : Int} (hx : HasVal x v) (hy : HasVal y w) (hz : isNaN z = false)
    (h : val z ≤ v - w) : le z (Fp.sub x y) = true := by
  obtain ⟨hnan, hkey⟩ := hx.key_add hy.neg
  refine le_iff.mpr ⟨hz, hnan, ?_⟩
  rw [Fp.sub, hkey, ← key_rounded_val hz]
  exact key_rounded_mono (by omega)

/-- A difference at most a binary32 value rounds to at most it. -/
theorem HasVal.sub_le {x y z : F32} {v w : Int} (hx : HasVal x v) (hy : HasVal y w) (hz : isNaN z = false)
    (h : v - w ≤ val z) : le (Fp.sub x y) z = true := by
  obtain ⟨hnan, hkey⟩ := hx.key_add hy.neg
  refine le_iff.mpr ⟨hnan, hz, ?_⟩
  rw [Fp.sub, hkey, ← key_rounded_val hz]
  exact key_rounded_mono (by omega)

/-! ## Comparisons by value (R254) -/

theorem lt_iff_val {x y : F32} (hx : isNaN x = false) (hy : isNaN y = false) : lt x y = true ↔ val x < val y := by
  have hyx := val_le_val hy hx
  rw [lt_iff]
  simp only [hx, hy, true_and]
  omega

theorem lt_of_lt_of_le {x y z : F32} (hxy : lt x y = true) (hyz : le y z = true) : lt x z = true := by
  obtain ⟨hx, -, hlt⟩ := lt_iff.mp hxy
  obtain ⟨-, hz, hle⟩ := le_iff.mp hyz
  exact lt_iff.mpr ⟨hx, hz, Int.lt_of_lt_of_le hlt hle⟩

/-- A value of size at most 1.0 is in [-1, 1]. -/
theorem HasVal.inBand {x : F32} {v : Int} (hx : HasVal x v) (h : v.natAbs ≤ 2 ^ 149) : inBand x = true := by
  obtain ⟨hfin, rfl⟩ := hx
  have hone : mag one ≤ infMag ∧ units one = 2 ^ 149 := by decide
  rw [inBand_iff_mag, ← units_le_units (Nat.le_of_lt (isFinite_iff.mp hfin)) hone.1, hone.2, ← natAbs_val]
  exact h

/-- A difference in [-1, 1] rounds into it. -/
theorem HasVal.inBand_sub {x y : F32} {v w : Int} (hx : HasVal x v) (hy : HasVal y w)
    (hlo : -2 ^ 149 ≤ v - w) (hhi : v - w ≤ 2 ^ 149) : Machine.inBand (Fp.sub x y) = true := by
  have hone : isNaN one = false ∧ val one = 2 ^ 149 := by decide
  have hneg : isNaN negOne = false ∧ val negOne = -2 ^ 149 := by decide
  rw [Machine.inBand, Bool.and_eq_true]
  exact ⟨hx.le_sub hy hneg.1 (hneg.2 ▸ hlo), hx.sub_le hy hone.1 (hone.2 ▸ hhi)⟩

end Sys2Proof.Machine.Fp

namespace Sys2Proof.Machine

open Fp (HasVal Representable)

/-! ## Phases and their multiples (R332) -/

theorem hasVal_one : HasVal Fp.one (2 ^ 149) := ⟨by decide, by decide⟩

theorem hasVal_two : HasVal Fp.two (2 ^ 150) := ⟨by decide, by decide⟩

theorem hasVal_four : HasVal Fp.four (2 ^ 151) := ⟨by decide, by decide⟩

/-- A phase in [0, 1) is finite, and at most the last binary32 below 1.0. -/
theorem val_of_inUnit {p : F32} (h : inUnit p = true) :
    Fp.isFinite p = true ∧ 0 ≤ Fp.val p ∧ Fp.val p ≤ 2 ^ 149 - 2 ^ 125 := by
  have hlast : Fp.mag 0x3F7FFFFF#32 = Fp.mag Fp.one - 1 ∧ Fp.units 0x3F7FFFFF#32 = 2 ^ 149 - 2 ^ 125 := by decide
  have hone : Fp.mag Fp.one = 0x3F800000 ∧ Fp.units Fp.one = 2 ^ 149 ∧ Fp.infMag = 0x7F800000 := by decide
  obtain ⟨hone_mag, hone_units, hinf⟩ := hone
  have hnan : Fp.isNaN p = false := (Fp.le_iff.mp (Bool.and_eq_true _ _ ▸ h).1).2.1
  have hp := Fp.isNaN_eq_false.mp hnan
  obtain ⟨hlo, hhi⟩ := (Fp.inUnit_iff_val hnan).mp h
  have habs := Fp.natAbs_val p
  have hmag : Fp.mag p < Fp.mag Fp.one := by
    by_contra hge
    have := (Fp.units_le_units (x := Fp.one) (by omega) hp).mpr (by omega)
    omega
  have hunits := (Fp.units_le_units (y := 0x3F7FFFFF#32) hp (by omega)).mpr (by omega)
  exact ⟨Fp.isFinite_iff.mpr (by omega), hlo, by omega⟩

/-- Scaling a phase up by a power of two is exact. -/
theorem hasVal_mul_phase {c p : F32} {k : Nat} (hc : HasVal c (2 ^ k * 2 ^ 149)) (hk : k ≤ 104)
    (hp : inUnit p = true) : HasVal (Fp.mul c p) (2 ^ k * Fp.val p) := by
  obtain ⟨hfin, hlo, hhi⟩ := val_of_inUnit hp
  have habs := Fp.natAbs_val p
  have hrep : Representable (Fp.units p * 2 ^ k) := Representable.mul_two_pow ⟨p, hfin, rfl⟩ (by omega) hk
  refine hc.mul ⟨hfin, rfl⟩ (by ring) ?_
  rwa [Int.natAbs_mul, habs, Int.natAbs_pow, Nat.mul_comm]

theorem hasVal_two_mul {p : F32} (hp : inUnit p = true) : HasVal (Fp.mul Fp.two p) (2 * Fp.val p) :=
  hasVal_mul_phase (k := 1) hasVal_two (by decide) hp

theorem hasVal_four_mul {p : F32} (hp : inUnit p = true) : HasVal (Fp.mul Fp.four p) (4 * Fp.val p) :=
  hasVal_mul_phase (k := 2) hasVal_four (by decide) hp

/-- The operand of `FN_SIN` stays finite on a phase (R332). -/
theorem isFinite_twoPi_mul {p : F32} (hp : inUnit p = true) : Fp.isFinite (Fp.mul Fp.twoPi p) = true := by
  have hpi : Fp.isFinite Fp.twoPi = true ∧ Fp.mag Fp.twoPi < Fp.infMag := by decide
  obtain ⟨hfin, hlo, hhi⟩ := val_of_inUnit hp
  have habs := Fp.natAbs_val p
  refine Fp.isFinite_iff.mpr (Nat.lt_of_le_of_lt (Fp.mag_mul_le hpi.1 hfin (Nat.le_of_lt hpi.2) ?_) hpi.2)
  exact Nat.mul_le_mul_left _ (by omega)

/-! ## The waveforms (R332, R333) -/

section

variable {F : Config.Fns} {p : F32} {g : Prng}

theorem wave_square : (wave F .square p g).1 = if Fp.lt p Fp.c0_5 then Fp.one else Fp.negOne := rfl

theorem wave_saw : (wave F .saw p g).1 = Fp.sub Fp.one (Fp.mul Fp.two p) := rfl

theorem wave_triangle_rising (h : Fp.lt p Fp.c0_25 = true) : (wave F .triangle p g).1 = Fp.mul Fp.four p := if_pos h

theorem wave_triangle_falling (hlo : Fp.lt p Fp.c0_25 = false) (hhi : Fp.lt p Fp.c0_75 = true) :
    (wave F .triangle p g).1 = Fp.sub Fp.two (Fp.mul Fp.four p) := by
  simp [wave, hlo, hhi]

theorem wave_triangle_returning (hlo : Fp.lt p Fp.c0_25 = false) (hhi : Fp.lt p Fp.c0_75 = false) :
    (wave F .triangle p g).1 = Fp.sub (Fp.mul Fp.four p) Fp.four := by
  simp [wave, hlo, hhi]

/-- Only Random advances the generator (R335). -/
theorem wave_prng (sh : Shape) : (wave F sh p g).2 = if sh = .random then prngNext g else g := by
  cases sh <;> rfl

theorem inBand_wave_square : inBand (wave F .square p g).1 = true := by
  have h : inBand Fp.one = true ∧ inBand Fp.negOne = true := by decide
  rw [wave_square]
  split
  · exact h.1
  · exact h.2

theorem inBand_wave_saw (hp : inUnit p = true) : inBand (wave F .saw p g).1 = true := by
  obtain ⟨-, hlo, hhi⟩ := val_of_inUnit hp
  rw [wave_saw]
  exact hasVal_one.inBand_sub (hasVal_two_mul hp) (by omega) (by omega)

/-- The saw does not reach -1: a phase ends at the last binary32 below 1.0, whose double is below 2.0 (R333). -/
theorem wave_saw_gt_negOne (hp : inUnit p = true) : Fp.gt (wave F .saw p g).1 Fp.negOne = true := by
  have hnext : Fp.isNaN 0xBF7FFFFE#32 = false ∧ Fp.val 0xBF7FFFFE#32 = -(2 ^ 149 - 2 ^ 126) ∧
      Fp.lt Fp.negOne 0xBF7FFFFE#32 = true := by decide
  obtain ⟨hnan, hval, hlt⟩ := hnext
  obtain ⟨-, -, hhi⟩ := val_of_inUnit hp
  refine Fp.lt_of_lt_of_le hlt (hasVal_one.le_sub (hasVal_two_mul hp) hnan ?_)
  omega

theorem inBand_wave_triangle (hp : inUnit p = true) : inBand (wave F .triangle p g).1 = true := by
  have hquarter : Fp.isNaN Fp.c0_25 = false ∧ Fp.val Fp.c0_25 = 2 ^ 147 := by decide
  have hthree : Fp.isNaN Fp.c0_75 = false ∧ Fp.val Fp.c0_75 = 3 * 2 ^ 147 := by decide
  obtain ⟨hfin, hlo, hhi⟩ := val_of_inUnit hp
  have hnan := Fp.isNaN_of_isFinite hfin
  have hlt25 := Fp.lt_iff_val hnan hquarter.1
  have hlt75 := Fp.lt_iff_val hnan hthree.1
  rw [hquarter.2] at hlt25
  rw [hthree.2] at hlt75
  have h4 := hasVal_four_mul hp
  cases h25 : Fp.lt p Fp.c0_25 with
  | true =>
    rw [wave_triangle_rising h25]
    have hlt := hlt25.mp h25
    exact h4.inBand (by omega)
  | false =>
    have hge := mt hlt25.mpr (Bool.eq_false_iff.mp h25)
    cases h75 : Fp.lt p Fp.c0_75 with
    | true =>
      have hlt := hlt75.mp h75
      rw [wave_triangle_falling h25 h75]
      exact hasVal_two.inBand_sub h4 (by omega) (by omega)
    | false =>
      have hge' := mt hlt75.mpr (Bool.eq_false_iff.mp h75)
      rw [wave_triangle_returning h25 h75]
      exact h4.inBand_sub hasVal_four (by omega) (by omega)

theorem inBand_wave_sine (hp : inUnit p = true) : inBand (wave fns .sine p g).1 = true :=
  inBand_sinWith _ (isFinite_twoPi_mul hp)

/-- The corner values of the four fixed shapes (R333). -/
theorem wave_corners (F : Config.Fns) (g : Prng) :
    ((wave F .square 0#32 g).1 = Fp.one ∧ (wave F .square Fp.c0_5 g).1 = Fp.negOne) ∧
    ((wave F .saw 0#32 g).1 = Fp.one ∧ (wave F .saw Fp.c0_5 g).1 = 0#32) ∧
    ((wave F .triangle 0#32 g).1 = 0#32 ∧ (wave F .triangle Fp.c0_25 g).1 = Fp.one ∧
      (wave F .triangle Fp.c0_5 g).1 = 0#32 ∧ (wave F .triangle Fp.c0_75 g).1 = Fp.negOne) ∧
    (wave F .sine 0#32 g).1 = F.sin 0#32 := by
  have hsquare : Fp.lt 0#32 Fp.c0_5 = true ∧ ¬ Fp.lt Fp.c0_5 Fp.c0_5 = true := by decide
  have hsaw : Fp.sub Fp.one (Fp.mul Fp.two 0#32) = Fp.one ∧ Fp.sub Fp.one (Fp.mul Fp.two Fp.c0_5) = 0#32 := by decide
  have hrising : Fp.mul Fp.four 0#32 = 0#32 := by decide
  have hfalling : Fp.sub Fp.two (Fp.mul Fp.four Fp.c0_25) = Fp.one ∧
      Fp.sub Fp.two (Fp.mul Fp.four Fp.c0_5) = 0#32 := by decide
  have hreturning : Fp.sub (Fp.mul Fp.four Fp.c0_75) Fp.four = Fp.negOne := by decide
  have hsine : Fp.mul Fp.twoPi 0#32 = 0#32 := by decide
  refine ⟨⟨wave_square.trans (if_pos hsquare.1), wave_square.trans (if_neg hsquare.2)⟩, hsaw,
    ⟨?atZero, ?atQuarter, ?atHalf, ?atThreeQuarters⟩, congrArg F.sin hsine⟩
  case atZero => exact (wave_triangle_rising (by decide)).trans hrising
  case atQuarter => exact (wave_triangle_falling (by decide) (by decide)).trans hfalling.1
  case atHalf => exact (wave_triangle_falling (by decide) (by decide)).trans hfalling.2
  case atThreeQuarters => exact (wave_triangle_returning (by decide) (by decide)).trans hreturning

end

/-- Settles O44: the shapes by their branches, the bands by the exact multiples of the phase. -/
theorem waveformsStayInBand : Obligations.WaveformsStayInBand := by
  refine ⟨fun F p g => ⟨wave_square, wave_saw, wave_triangle_rising, wave_triangle_falling, wave_triangle_returning,
    rfl, ?still, rfl, rfl⟩, fun F g => ?corners, fun sh p g hsh hp => ?band⟩
  case still => exact fun sh hsh => (wave_prng sh).trans (if_neg hsh)
  case corners =>
    obtain ⟨⟨hsq0, hsq1⟩, ⟨hsaw0, hsaw1⟩, ⟨htri0, htri1, htri2, htri3⟩, hsine⟩ := wave_corners F g
    exact ⟨hsq0, hsq1, hsaw0, hsaw1, htri0, htri1, htri2, htri3, hsine, fun p => wave_saw_gt_negOne⟩
  case band =>
    cases sh with
    | square => exact inBand_wave_square
    | saw => exact inBand_wave_saw hp
    | triangle => exact inBand_wave_triangle hp
    | sine => exact inBand_wave_sine hp
    | random => exact absurd rfl hsh

/-! ## The random generator (R335, R338) -/

/-- A word read as a signed integer converts to a finite value of at most 2^31 in size (R258). -/
theorem ofS32_le (w : U32) : Fp.isFinite (Fp.ofS32 w) = true ∧ Fp.units (Fp.ofS32 w) ≤ 2 ^ 31 * 2 ^ 149 := by
  have hmax : Fp.mag 0x4F000000#32 < Fp.infMag ∧ Fp.units 0x4F000000#32 = 2 ^ 31 * 2 ^ 149 := by decide
  obtain ⟨hfin, hunits⟩ := hmax
  have habs : w.toInt.natAbs ≤ 2 ^ 31 := by
    have hlo := BitVec.le_toInt w
    have hhi := BitVec.toInt_lt (x := w)
    omega
  have hle : Fp.mag (Fp.ofS32 w) ≤ Fp.mag 0x4F000000#32 := by
    rw [Fp.ofS32, Fp.ofInt, Fp.mag_pack _ (Fp.roundMag_lt _ _)]
    exact Fp.roundMag_le_mag Nat.one_pos (Nat.le_of_lt hfin) (by omega)
  have hlt := Nat.lt_of_le_of_lt hle hfin
  exact ⟨Fp.isFinite_iff.mpr hlt, hunits ▸ (Fp.units_le_units (Nat.le_of_lt hlt) (Nat.le_of_lt hfin)).mpr hle⟩

/-- The generator's output is at most 2^31 * 2^-31 in size (R335). -/
theorem inBand_prngOut (g : Prng) : inBand (prngOut g) = true := by
  have hscale : Fp.isFinite Fp.twoM31 = true ∧ Fp.units Fp.twoM31 = 2 ^ 118 := by decide
  have hone : Fp.mag Fp.one ≤ Fp.infMag ∧ Fp.units Fp.one = 2 ^ 149 := by decide
  obtain ⟨hfin, hle⟩ := ofS32_le g.a
  refine inBand_iff_mag.mpr (Fp.mag_mul_le hfin hscale.1 hone.1 ?_)
  rw [hscale.2, hone.2]
  omega

/-- Settles O43: the band by the size of the scaled word, the four words by running the generator. -/
theorem generatorStepsAndStaysInBand : Obligations.GeneratorStepsAndStaysInBand := by
  refine ⟨fun g => ⟨rfl, rfl, rfl, inBand_prngOut g⟩, ?_⟩
  decide

/-! ## The LFO value (R330, R334) -/

/-- A waveform value after the magnitude and the fade-in, the first two steps of `lfoRunning` (R330). -/
def lfoFaded (l : LfoCfg) (nt w : F32) : F32 :=
  let x := Fp.mul w l.magnitude
  if Fp.lt nt (Fp.add l.delay l.attack) then Fp.mul x (Fp.div (Fp.sub nt l.delay) l.attack) else x

section

variable {F : Config.Fns} {l : LfoCfg} {nt p w : F32} {g : Prng}

theorem lfoRunning_offset (h : l.zeroCentered = false) :
    lfoRunning l nt w = Fp.add (Fp.mul (lfoFaded l nt w) l.base) l.base := by
  simp [lfoRunning, lfoFaded, h]

theorem lfoRunning_centered (h : l.zeroCentered = true) : lfoRunning l nt w = Fp.mul (lfoFaded l nt w) l.base :=
  if_pos h

theorem lfoRamp_offset (h : l.zeroCentered = false) : lfoRamp l nt = Fp.mul l.base (Fp.div nt l.delay) := by
  simp [lfoRamp, h]

theorem lfoRamp_centered (h : l.zeroCentered = true) :
    lfoRamp l nt = Fp.mul l.base (Fp.sub Fp.one (Fp.div nt l.delay)) := if_pos h

theorem lfoEval_running (h : Fp.gt nt l.delay = true) :
    lfoEval F l nt p g = (lfoRunning l nt (wave F l.shape p g).1, (wave F l.shape p g).2) := if_pos h

theorem lfoEval_ramp (hrun : Fp.gt nt l.delay = false) (hdelay : Fp.gt l.delay Fp.pos0 = true) :
    lfoEval F l nt p g = (lfoRamp l nt, g) := by
  simp [lfoEval, hrun, hdelay]

theorem lfoEval_idle (hrun : Fp.gt nt l.delay = false) (hdelay : Fp.gt l.delay Fp.pos0 = false) :
    lfoEval F l nt p g = (Fp.pos0, g) := by
  simp [lfoEval, hrun, hdelay]

/-- The generator moves only in the running branch of a Random LFO (R335). -/
theorem lfoEval_prng : (lfoEval F l nt p g).2 =
    if Fp.gt nt l.delay = true ∧ l.shape = .random then prngNext g else g := by
  cases hrun : Fp.gt nt l.delay with
  | true => simp [lfoEval_running hrun, wave_prng]
  | false =>
    cases hdelay : Fp.gt l.delay Fp.pos0 with
    | true => simp [lfoEval_ramp hrun hdelay]
    | false => simp [lfoEval_idle hrun hdelay]

end

section

variable (F : Config.Fns) (c : OscCfg) (nt : F32) (d : DestIx) (b : LfoBank)

theorem lfoValue_value : (lfoValue F c nt d b).1 = (lfoEval F c.lfo[d] nt b.ph[d] b.prng).1 := rfl

theorem lfoValue_prng : (lfoValue F c nt d b).2.prng = (lfoEval F c.lfo[d] nt b.ph[d] b.prng).2 := rfl

theorem lfoValue_cursor_same : (lfoValue F c nt d b).2.ph[d] = lfoAdvance b.ph[d] := by simp [lfoValue]

theorem lfoValue_cursor_other {e : DestIx} (h : e ≠ d) : (lfoValue F c nt d b).2.ph[e] = b.ph[e] := by
  simp [lfoValue, Vector.getElem_set_ne, Fin.val_ne_of_ne h.symm]

end

/-- Settles O42: each branch of `lfoEval`, then the cursor and the generator. -/
theorem lfoValueByBranch : Obligations.LfoValueByBranch := by
  intro F c nt d b
  refine ⟨fun hrun hzc => ?offset, fun hrun hzc => ?centered, fun hrun hdelay hzc => ?rampUp,
    fun hrun hdelay hzc => ?rampDown, fun hrun hdelay => ?idle, lfoValue_cursor_same F c nt d b,
    fun e => lfoValue_cursor_other F c nt d b,
    (lfoValue_prng F c nt d b).trans lfoEval_prng⟩
  case offset =>
    rw [lfoValue_value, lfoEval_running hrun]
    exact lfoRunning_offset hzc
  case centered =>
    rw [lfoValue_value, lfoEval_running hrun]
    exact lfoRunning_centered hzc
  case rampUp =>
    rw [lfoValue_value, lfoEval_ramp hrun hdelay]
    exact lfoRamp_offset hzc
  case rampDown =>
    rw [lfoValue_value, lfoEval_ramp hrun hdelay]
    exact lfoRamp_centered hzc
  case idle =>
    rw [lfoValue_value, lfoEval_idle hrun hdelay]
    rfl

end Sys2Proof.Machine

end

/-! # The oscillator (43_oscillator.md)

Proofs of the obligations on the frequency, the modulation values and the sample of an oscillator step. The octave loop
stops early only at values that scaling leaves alone; the six LFO evaluations do not touch each other's cursors. -/

section

namespace Sys2Proof.Machine.Fp

/-! ## Scaling by a positive factor (R251, R253) -/

/-- Zeros, infinities and the canonical NaN are unchanged by a finite positive factor. -/
theorem mul_eq_self {x y : F32} (hx : isZero x = true ∨ isFinite x = false) (hcanon : Canonical x)
    (hy : isFinite y = true) (hpos : gt y pos0 = true) : mul x y = x := by
  obtain ⟨hynan, hyzero, hysign⟩ := gt_pos0_iff.mp hpos
  have hyinf := isInf_of_isFinite hy
  by_cases hnan : isNaN x = true
  · rw [hcanon hnan]
    rfl
  · rw [Bool.not_eq_true] at hnan
    by_cases hfin : isFinite x = true
    · have hmag : mag x = 0 := of_decide_eq_true (hx.resolve_right (by simp [hfin]))
      calc mul x y = pack (sign x) 0 := by
            simp [mul_of_isFinite hfin hy, units_eq_zero.mpr hmag, hysign]
        _ = x := by rw [← hmag, pack_eta]
    · have hmag : mag x = infMag :=
        Nat.le_antisymm (isNaN_eq_false.mp hnan) (Nat.le_of_not_lt (mt isFinite_iff.mpr hfin))
      have hinf : isInf x = true := decide_eq_true hmag
      have hzero : isZero x = false := decide_eq_false (by rw [hmag]; decide)
      calc mul x y = inf (sign x) := by simp [mul, hnan, hynan, hinf, hzero, hyzero, hysign]
        _ = x := by rw [inf, ← hmag, pack_eta]

/-- The integer power is the repeated multiplication from the left (R261). -/
theorem ipow_succ_eq_iterate (x : F32) (k : Nat) : ipow x (k + 1) = (fun z => mul z x)^[k] x := by
  induction k with
  | zero => rfl
  | succ k ih =>
    rw [Function.iterate_succ_apply', ← ih]
    rfl

end Sys2Proof.Machine.Fp

namespace Sys2Proof.Machine

/-! ## The octave offset (R362) -/

/-- A loop that scales until the value is zero, infinite or NaN gives what the full repetition gives. -/
theorem scaling_eq_iterate {loop : Nat → F32 → F32} {y : F32} (hzero : ∀ f, loop 0 f = f)
    (hsucc : ∀ k f, loop (k + 1) f = if Fp.isZero f || !Fp.isFinite f then f else loop k (Fp.mul f y))
    (hy : Fp.isFinite y = true) (hpos : Fp.gt y Fp.pos0 = true) (k : Nat) {f : F32} (hf : Fp.Canonical f) :
    loop k f = (fun x => Fp.mul x y)^[k] f := by
  induction k generalizing f with
  | zero => exact hzero f
  | succ k ih =>
    rw [hsucc]
    split
    case isTrue hstop =>
      have hfixed : Fp.mul f y = f := Fp.mul_eq_self (by simpa using hstop) hf hy hpos
      exact (Function.iterate_fixed (f := fun x => Fp.mul x y) hfixed (k + 1)).symm
    case isFalse => rw [Function.iterate_succ_apply, ih (Fp.mul_canonical f y)]

theorem octavesUp_eq_iterate (k : Nat) {f : F32} (hf : Fp.Canonical f) :
    octavesUp k f = (fun x => Fp.mul x Fp.two)^[k] f :=
  scaling_eq_iterate (fun _ => rfl) (fun _ _ => rfl) (by decide) (by decide) k hf

theorem octavesDown_eq_iterate (k : Nat) {f : F32} (hf : Fp.Canonical f) :
    octavesDown k f = (fun x => Fp.mul x Fp.c0_5)^[k] f :=
  scaling_eq_iterate (fun _ => rfl) (fun _ _ => rfl) (by decide) (by decide) k hf

theorem octaveShift_of_nonneg {k : Int} (h : 0 ≤ k) (f : F32) : octaveShift k f = octavesUp k.toNat f := by
  rcases Int.lt_or_eq_of_le h with hpos | rfl
  · exact if_pos hpos
  · rfl

theorem octaveShift_of_nonpos {k : Int} (h : k ≤ 0) (f : F32) : octaveShift k f = octavesDown (-k).toNat f :=
  if_neg (Int.not_lt.mpr h)

/-- Settles O46: each step of the octave loop keeps the frequency canonical, and the loop stops at fixed points only. -/
theorem octaveShiftIsRepeatedScaling : Obligations.OctaveShiftIsRepeatedScaling := by
  intro F c nb f
  have hf : Fp.Canonical f := Fp.mul_canonical _ _
  exact ⟨fun h => (octaveShift_of_nonneg h f).trans (octavesUp_eq_iterate _ hf),
    fun h => (octaveShift_of_nonpos h f).trans (octavesDown_eq_iterate _ hf)⟩

/-! ## The modulation values and the cursors (R361, R370, R374) -/

section

variable (F : Config.Fns) (c : OscCfg) (nt : F32)

/-- An LFO reads its own cursor and the generator only. -/
theorem lfoValue_congr (d : DestIx) {a b : LfoBank} (hph : a.ph[d] = b.ph[d]) (hprng : a.prng = b.prng) :
    (lfoValue F c nt d a).1 = (lfoValue F c nt d b).1 ∧
    (lfoValue F c nt d a).2.prng = (lfoValue F c nt d b).2.prng := by
  simp only [lfoValue_value, lfoValue_prng, hph, hprng, and_self]

/-- An LFO evaluation writes its own cursor (R334). -/
theorem lfoValue_ph (d : DestIx) (b : LfoBank) :
    (lfoValue F c nt d b).2.ph = b.ph.set d (lfoAdvance b.ph[d]) := rfl

/-- The six evaluations of a step advance every cursor once (R334, R361). -/
theorem modulate_cursor (b : LfoBank) (d : DestIx) : (modulate F c nt b).2.ph[d] = lfoAdvance b.ph[d] := by
  unfold modulate
  fin_cases d
  all_goals simp [lfoValue_ph]

end

/-- Settles O45: each LFO finds its own cursor as the step began, since the ones before it moved only theirs. -/
theorem oscillatorStepAdvancesItsCursors : Obligations.OscillatorStepAdvancesItsCursors := by
  intro F c nt nb sum o g vol morph squish dist tune dec m r
  obtain ⟨hmorph, gmorph⟩ := lfoValue_congr F c nt 1 (a := vol.2) (b := ⟨o.lfoPh, vol.2.prng⟩)
    (by simp [vol, lfoValue_ph]) rfl
  obtain ⟨hsquish, gsquish⟩ := lfoValue_congr F c nt 2 (b := ⟨o.lfoPh, morph.2.prng⟩)
    (by simp [vol, lfoValue_ph]) gmorph
  obtain ⟨hdist, gdist⟩ := lfoValue_congr F c nt 3 (b := ⟨o.lfoPh, squish.2.prng⟩)
    (by simp [vol, lfoValue_ph]) gsquish
  obtain ⟨htune, gtune⟩ := lfoValue_congr F c nt 0 (b := ⟨o.lfoPh, dist.2.prng⟩)
    (by simp [vol, lfoValue_ph]) gdist
  obtain ⟨hdec, gdec⟩ := lfoValue_congr F c nt 5 (b := ⟨o.lfoPh, tune.2.prng⟩)
    (by simp [vol, lfoValue_ph]) gtune
  have hcursor : ∀ d : DestIx, r.osc.lfoPh[d] = lfoAdvance o.lfoPh[d] := modulate_cursor F c nt ⟨o.lfoPh, g⟩
  have hphase : r.osc.phase = phaseAdvance o.phase (frequency F c nb) tune.1 :=
    congrArg (phaseAdvance o.phase (frequency F c nb)) htune
  refine ⟨⟨rfl, hmorph, hsquish, hdist, htune, hdec, gdec⟩, hcursor, hphase, inUnit_wrap _, fun d => ?_⟩
  rw [hcursor d]
  exact inUnit_wrap _

/-! ## The sample and the combine laws (R363 to R369) -/

section

variable {c : OscCfg} (sum out vol : F32)

theorem combine_mix (h : c.combine = .mix) : combine c sum out vol = Fp.add sum out := by simp [combine, h]

theorem combine_mul (h : c.combine = .mul) :
    combine c sum out vol = Fp.mul sum (Fp.lerp Fp.one out c.lfo[(4 : DestIx)].base) := by simp [combine, h]

theorem combine_ring (h : c.combine = .ring) :
    combine c sum out vol = Fp.mul sum (Fp.sub Fp.one (Fp.mul Fp.c0_5 (Fp.add out vol))) := by simp [combine, h]

end

/-- The shaping parameters with their powers written out as products (R261, R363). -/
theorem shapingOf_eq (morph squish dec : F32) : shapingOf morph squish dec =
    { c := Fp.mul ((fun z => Fp.mul z (alphaOf morph))^[9] (alphaOf morph)) Fp.thirty
      flat := Fp.mul (Fp.mul (Fp.mul squish squish) squish) Fp.eight
      decat := Fp.ceil (Fp.add Fp.one
        (Fp.div Fp.one (Fp.add (Fp.mul (Fp.mul dec dec) dec) Fp.c0_001))) } := by
  rw [← Fp.ipow_succ_eq_iterate]
  rfl

section

variable (F : Config.Fns) (c : OscCfg) (nt nb sum : F32) (o : OscState) (g : Prng)

/-- The new PREV is the smoothed sample at the cursor before the advance (R363 to R368). -/
theorem oscStep_prev {m : Mods} (h : (modulate F c nt ⟨o.lfoPh, g⟩).1 = m) :
    (oscStep F c nt nb sum o g).osc.prev =
      smooth (shapedSample F (shapingOf m.morph m.squish m.dec) o.phase m.dist m.vol) o.prev := by
  subst h
  simp only [oscStep]

/-- The new PREV is what joins the sum (R369). -/
theorem oscStep_sum : (oscStep F c nt nb sum o g).sum =
    combine c sum (oscStep F c nt nb sum o g).osc.prev (modulate F c nt ⟨o.lfoPh, g⟩).1.vol := by
  simp only [oscStep]

end

/-- Settles O47: the sample by the definitions of its six steps, its sum by the three laws. -/
theorem combineLawsJoinTheSum : Obligations.CombineLawsJoinTheSum := by
  intro F c nt nb sum o g m cube alpha bigC flat decat q curve half x0 y0 y out r
  have hshaping : shapingOf m.morph m.squish m.dec = ⟨bigC, flat, decat⟩ := shapingOf_eq _ _ _
  have hq : quantize o.phase decat = q := rfl
  have hhalf (x : F32) : halfCurve F ⟨bigC, flat, decat⟩ x = half x := by rw [halfCurve, transfer]
  have hcurve : shapeCurve F ⟨bigC, flat, decat⟩ q = x0 := by rw [shapeCurve, hhalf, hhalf]
  have hdistort : distort x0 m.dist = Fp.sub (Fp.mul Fp.c1_5 y0) (Fp.mul Fp.c0_5 (cube y0)) := rfl
  have hprev : r.osc.prev = out := by
    rw [oscStep_prev F c nt nb sum o g (m := m) rfl, hshaping, shapedSample, hq, hcurve, hdistort]
    rfl
  have hsum : r.sum = combine c sum out m.vol := hprev ▸ oscStep_sum F c nt nb sum o g
  exact ⟨hprev, fun h => hsum.trans (combine_mix sum out m.vol h), fun h => hsum.trans (combine_mul sum out m.vol h),
    fun h => hsum.trans (combine_ring sum out m.vol h)⟩

end Sys2Proof.Machine

end

/-! # The ladder filter (44_ladder_filter.md)

Proofs of the obligations on the filter's formulas, its hold at cutoff 0 and its NaN stages: what one pole does is said
once, for a tuning gain of `+0.0` and for a NaN, and a pass is four poles. -/

section

namespace Sys2Proof.Machine.Fp

/-! ## NaN operands (R253) -/

theorem isNaN_add {x y : F32} (h : isNaN x = true ∨ isNaN y = true) : isNaN (add x y) = true := by
  rw [add, if_pos (by simpa using h)]
  rfl

theorem isNaN_sub {x y : F32} (h : isNaN x = true ∨ isNaN y = true) : isNaN (sub x y) = true :=
  isNaN_add (h.imp_right (isNaN_neg y).trans)

theorem isNaN_mul {x y : F32} (h : isNaN x = true ∨ isNaN y = true) : isNaN (mul x y) = true := by
  rw [mul, if_pos (by simpa using h)]
  rfl

/-! ## Zero products and differences of banded values (R251, R253) -/

/-- `+0.0` times a finite value is a zero. -/
theorem hasVal_pos0_mul {x : F32} (hx : isFinite x = true) : HasVal (mul pos0 x) 0 :=
  HasVal.mul (hasVal_zero false) ⟨hx, rfl⟩ (Int.zero_mul _) ⟨pos0, rfl, rfl⟩

/-- A value in [-1, 1] is finite and at most 1.0 in size. -/
theorem isFinite_of_inBand {x : F32} (h : Machine.inBand x = true) : isFinite x = true ∧ units x ≤ 2 ^ 149 := by
  obtain ⟨honefin, honeunits⟩ : mag one < infMag ∧ units one = 2 ^ 149 := by decide
  have hmag := Machine.inBand_iff_mag.mp h
  have hfin : mag x < infMag := Nat.lt_of_le_of_lt hmag honefin
  exact ⟨isFinite_iff.mpr hfin,
    honeunits ▸ (units_le_units (Nat.le_of_lt hfin) (Nat.le_of_lt honefin)).mpr hmag⟩

/-- A value between -2.0 and 2.0 is finite. -/
theorem isFinite_of_between_twos {x : F32} (hlo : le (neg two) x = true) (hhi : le x two = true) :
    isFinite x = true := by
  have hkeyhi : key two = 2 ^ 30 := by decide
  have hkeylo : key (neg two) = -2 ^ 30 := by decide
  obtain ⟨-, -, hlo⟩ := le_iff.mp hlo
  obtain ⟨-, -, hhi⟩ := le_iff.mp hhi
  rw [hkeylo, key] at hlo
  rw [hkeyhi, key] at hhi
  rw [isFinite_iff, infMag]
  split_ifs at hlo hhi <;> omega

/-- The difference of two values in [-1, 1] is at most 2.0 in size, so it is finite. -/
theorem isFinite_sub_of_inBand {x y : F32} (hx : Machine.inBand x = true) (hy : Machine.inBand y = true) :
    isFinite (sub x y) = true := by
  have htwo : isNaN two = false ∧ val two = 2 ^ 150 := by decide
  have hneg : isNaN (neg two) = false ∧ val (neg two) = -2 ^ 150 := by decide
  obtain ⟨hxfin, hxle⟩ := isFinite_of_inBand hx
  obtain ⟨hyfin, hyle⟩ := isFinite_of_inBand hy
  have hxabs := natAbs_val x
  have hyabs := natAbs_val y
  have hxval : HasVal x (val x) := ⟨hxfin, rfl⟩
  have hyval : HasVal y (val y) := ⟨hyfin, rfl⟩
  exact isFinite_of_between_twos (hxval.le_sub hyval hneg.1 (by omega)) (hxval.sub_le hyval htwo.1 (by omega))

end Sys2Proof.Machine.Fp

namespace Sys2Proof.Machine

open Fp (HasVal)

/-! ## The coefficients (R401, R405) -/

/-- A cutoff that is NaN, below 0 or `+0.0` is guarded to `+0.0`. -/
theorem cutoffFc_closed {cutoff : F32}
    (h : Fp.isNaN cutoff = true ∨ Fp.lt cutoff Fp.pos0 = true ∨ cutoff = 0#32) : cutoffFc cutoff = Fp.pos0 := by
  have hclamp : Fp.clamp cutoff Fp.pos0 Fp.one = Fp.pos0 := by
    rcases h with hnan | hneg | rfl
    · exact Fp.clamp_of_not_ge _ fun hge => by simp [Fp.ge_iff, Fp.le_iff, hnan] at hge
    · obtain ⟨hc, hz, -⟩ := Fp.lt_iff.mp hneg
      exact Fp.clamp_of_not_ge _ fun hge => (Fp.not_lt_iff_le hz hc).mpr hge hneg
    · decide
  rw [cutoffFc, hclamp]
  decide

theorem expWith_negZero (raw : F32 → F32) : expWith raw 0x80000000#32 = Fp.one := rfl

/-- A closed cutoff gives a tuning gain of `1.0 - FN_EXP(-0.0)`, which is `+0.0` (R405). -/
theorem tuningGain_pos0 : tuningGain fns Fp.pos0 = Fp.pos0 := by
  have harg : Fp.neg (Fp.mul (Fp.mul Fp.twoPi (Fp.mul Fp.pos0 Fp.c0_5)) (cutoffCorrection Fp.pos0)) =
      0x80000000#32 := by decide
  have hexp : fns.exp 0x80000000#32 = Fp.one := expWith_negZero Config.rawExp
  rw [tuningGain, harg, hexp]
  decide

/-! ## One pole (R402) -/

/-- With a tuning gain of `+0.0` a finite stage keeps its value whatever number comes in (R405). -/
theorem hasVal_poleStep_pos0 {s x : F32} (hs : Fp.isFinite s = true) (hx : Fp.isNaN x = false) :
    HasVal (poleStep fns Fp.pos0 s x) (Fp.val s) := by
  have hdiff : Fp.isFinite (Fp.sub (fns.tanh x) (fns.tanh s)) = true :=
    Fp.isFinite_sub_of_inBand (inBand_tanhWith _ hx) (inBand_tanhWith _ (Fp.isNaN_of_isFinite hs))
  exact HasVal.add_zero hs (Fp.hasVal_pos0_mul hdiff)

/-- A NaN stage stays NaN. -/
theorem isNaN_poleStep_stage (F : Config.Fns) (tune x : F32) {s : F32} (hs : Fp.isNaN s = true) :
    Fp.isNaN (poleStep F tune s x) = true := Fp.isNaN_add (.inl hs)

/-- A NaN input makes the stage NaN, for `FN_TANH` of a NaN is one (R263). -/
theorem isNaN_poleStep_input (tune s : F32) {x : F32} (hx : Fp.isNaN x = true) :
    Fp.isNaN (poleStep fns tune s x) = true := by
  have htanh : Fp.isNaN (fns.tanh x) = true := congrArg Fp.isNaN (tanhWith_nan _ hx)
  exact Fp.isNaN_add (.inr (Fp.isNaN_mul (.inr (Fp.isNaN_sub (.inl htanh)))))

/-! ## One pass (R402, R404, R405, R406) -/

section

variable (k : FilterCoef) (res xin : F32) {f : FilterState}

/-- With a tuning gain of `+0.0` each finite stage keeps its value, so each hands a number to the next. -/
theorem filterPass_holds (htune : k.tune = Fp.pos0) (h0 : Fp.isFinite f.fs0 = true) (h1 : Fp.isFinite f.fs1 = true)
    (h2 : Fp.isFinite f.fs2 = true) (h3 : Fp.isFinite f.fs3 = true)
    (hin : Fp.isNaN (Fp.sub xin (Fp.mul (Fp.mul (Fp.mul Fp.four res) f.fout) k.acr)) = false) :
    HasVal (filterPass fns k res xin f).fs0 (Fp.val f.fs0) ∧
    HasVal (filterPass fns k res xin f).fs1 (Fp.val f.fs1) ∧
    HasVal (filterPass fns k res xin f).fs2 (Fp.val f.fs2) ∧
    HasVal (filterPass fns k res xin f).fs3 (Fp.val f.fs3) := by
  simp only [filterPass, htune]
  have p0 := hasVal_poleStep_pos0 h0 hin
  have p1 := hasVal_poleStep_pos0 h1 (Fp.isNaN_of_isFinite p0.1)
  have p2 := hasVal_poleStep_pos0 h2 (Fp.isNaN_of_isFinite p1.1)
  have p3 := hasVal_poleStep_pos0 h3 (Fp.isNaN_of_isFinite p2.1)
  exact ⟨p0, p1, p2, p3⟩

/-- Every stage is a NaN. -/
def FilterState.StagesNaN (f : FilterState) : Prop :=
  Fp.isNaN f.fs0 = true ∧ Fp.isNaN f.fs1 = true ∧ Fp.isNaN f.fs2 = true ∧ Fp.isNaN f.fs3 = true

/-- A NaN input runs through the four poles. -/
theorem filterPass_stagesNaN_of_input (f : FilterState) (hx : Fp.isNaN xin = true) :
    (filterPass fns k res xin f).StagesNaN := by
  have p0 := isNaN_poleStep_input k.tune f.fs0
    (Fp.isNaN_sub (y := Fp.mul (Fp.mul (Fp.mul Fp.four res) f.fout) k.acr) (.inl hx))
  have p1 := isNaN_poleStep_input k.tune f.fs1 p0
  have p2 := isNaN_poleStep_input k.tune f.fs2 p1
  have p3 := isNaN_poleStep_input k.tune f.fs3 p2
  exact ⟨p0, p1, p2, p3⟩

theorem filterPass_stagesNaN_of_stages (F : Config.Fns) (h : f.StagesNaN) :
    (filterPass F k res xin f).StagesNaN := by
  obtain ⟨h0, h1, h2, h3⟩ := h
  exact ⟨isNaN_poleStep_stage F _ _ h0, isNaN_poleStep_stage F _ _ h1, isNaN_poleStep_stage F _ _ h2,
    isNaN_poleStep_stage F _ _ h3⟩

/-- The output of a pass is the mean of its last stage and the delayed one (R404). -/
theorem isNaN_filterPass_fout (F : Config.Fns) (h : Fp.isNaN (filterPass F k res xin f).fs3 = true) :
    Fp.isNaN (filterPass F k res xin f).fout = true := Fp.isNaN_mul (.inl (Fp.isNaN_add (.inl h)))

end

/-- Settles O48: the formulas are the definitions'; at a closed cutoff the tuning gain is `1.0 - FN_EXP(-0.0)`, and with
it a pole adds a zero to its stage. -/
theorem filterHoldsAtCutoffZero : Obligations.FilterHoldsAtCutoffZero := by
  refine ⟨?coef, fun F k res xin f => ⟨rfl, rfl, rfl, rfl, rfl, rfl⟩, fun F c xin f => rfl, ?tune, ?hold⟩
  case coef =>
    intro F cutoff
    have hconst : Fp.neg cF1 = 0x3F2624DD#32 := by decide
    refine ⟨rfl, ?_⟩
    rw [filterCoef, tuningGain, cutoffCorrection, hconst]
    rfl
  case tune =>
    intro cutoff h
    rw [filterCoef, cutoffFc_closed h]
    exact tuningGain_pos0
  case hold =>
    intro k res xin f htune h0 h1 h2 h3 hin
    have heq {s p : F32} (hs : Fp.isFinite s = true) (hp : HasVal p (Fp.val s)) : Fp.eq p s = true :=
      (Fp.eq_iff_val (Fp.isNaN_of_isFinite hp.1) (Fp.isNaN_of_isFinite hs)).mpr hp.2
    obtain ⟨p0, p1, p2, p3⟩ := filterPass_holds k res xin htune h0 h1 h2 h3 hin
    exact ⟨heq h0 p0, heq h1 p1, heq h2 p2, heq h3 p3⟩

/-- Settles O49: a sample is two passes; the second one sees the NaN input too, and NaN stages pass through both. -/
theorem filterNaNIsSticky : Obligations.FilterNaNIsSticky := by
  refine ⟨fun c xin f hx => ?input, fun c xin f h0 h1 h2 h3 => ?stages⟩
  case input =>
    obtain ⟨p0, p1, p2, p3⟩ := filterPass_stagesNaN_of_input (filterCoef fns c.filterCutoff) c.filterResonance xin
      (filterPass fns (filterCoef fns c.filterCutoff) c.filterResonance xin f) hx
    exact ⟨p0, p1, p2, p3, isNaN_filterPass_fout _ _ _ fns p3⟩
  case stages =>
    exact filterPass_stagesNaN_of_stages _ _ _ fns (filterPass_stagesNaN_of_stages _ _ _ fns ⟨h0, h1, h2, h3⟩)

end Sys2Proof.Machine

end

/-! # Note events and voice allocation (45_note_events.md)

Proofs of the obligations on NOTE_ON and NOTE_OFF: what a search over the slots finds, what each note event does by
channel and mode, and the frame of a voice write are said once, and the obligations are read off. -/

section

namespace Sys2Proof.Machine

/-! ## The searches over the slots (R431, R432) -/

/-- A search in the order every rule visits the slots is the search of the whole index type. -/
theorem find?_allSlots (p : Slot → Bool) : allSlots.find? p = Fin.find? p :=
  (Fin.find?_eq_find?_finRange (p := p)).symm

section

variable {key : BitVec 8} {s : State}

theorem holdsKey_eq_false {v : Voice} : holdsKey v key = false ↔ (v.died = false → v.key ≠ key) := by
  cases hd : v.died <;> simp [holdsKey, hd]

/-- The search is three searches, each tried when those before it find nothing. -/
theorem alloc_eq_or (key : BitVec 8) (s : State) : alloc key s =
    ((Fin.find? fun u => holdsKey (s.voice u) key).or
      ((Fin.find? fun u => (s.voice u).died).or (Fin.find? fun u => !(s.voice u).alive))) := by
  simp only [alloc, find?_allSlots]
  cases Fin.find? fun u => holdsKey (s.voice u) key with
  | some v => rfl
  | none => cases Fin.find? fun u => (s.voice u).died <;> rfl

/-- The voice found is of one of the three kinds, with what the steps before did not find. -/
theorem alloc_eq_some {v : Slot} (h : alloc key s = some v) :
    (holdsKey (s.voice v) key = true ∧ ∀ u < v, holdsKey (s.voice u) key = false) ∨
    ((∀ u, holdsKey (s.voice u) key = false) ∧ (s.voice v).died = true ∧ ∀ u < v, (s.voice u).died = false) ∨
    ((∀ u, holdsKey (s.voice u) key = false ∧ (s.voice u).died = false) ∧ (s.voice v).alive = false ∧
      ∀ u < v, (s.voice u).alive = true) := by
  rw [alloc_eq_or, Option.or_eq_some_iff, Option.or_eq_some_iff] at h
  rcases h with holder | ⟨noHolder, died | ⟨noDied, idle⟩⟩
  · exact .inl (Fin.find?_eq_some_iff.mp holder)
  · exact .inr (.inl ⟨Fin.find?_eq_none_iff.mp noHolder, Fin.find?_eq_some_iff.mp died⟩)
  · refine .inr (.inr ⟨fun u => ⟨Fin.find?_eq_none_iff.mp noHolder u, Fin.find?_eq_none_iff.mp noDied u⟩, ?_⟩)
    simpa using Fin.find?_eq_some_iff.mp idle

/-- The search fails just when none of its steps finds a voice. -/
theorem alloc_eq_none : alloc key s = none ↔
    ∀ u, (s.voice u).died = false ∧ (s.voice u).alive = true ∧ (s.voice u).key ≠ key := by
  rw [alloc_eq_or, Option.or_eq_none_iff, Option.or_eq_none_iff, Fin.find?_eq_none_iff, Fin.find?_eq_none_iff,
    Fin.find?_eq_none_iff]
  simp only [holdsKey_eq_false, Bool.not_eq_false']
  constructor
  · rintro ⟨noHolder, noDied, noIdle⟩ u
    exact ⟨noDied u, noIdle u, noHolder u (noDied u)⟩
  · intro h
    exact ⟨fun u _ => (h u).2.2, fun u => (h u).1, fun u => (h u).2.1⟩

/-- The note-off search finds the lowest slot whose voice is held on the key (R432). -/
theorem matchOff_eq_some {v : Slot} : matchOff key s = some v ↔
    ((s.voice v).alive = true ∧ (s.voice v).key = key) ∧
      ∀ u < v, ¬ ((s.voice u).alive = true ∧ (s.voice u).key = key) := by
  simp [matchOff, find?_allSlots]

theorem matchOff_eq_none : matchOff key s = none ↔
    ∀ u, ¬ ((s.voice u).alive = true ∧ (s.voice u).key = key) := by
  simp [matchOff, find?_allSlots]

end

/-- Settles O17: the search step by step. -/
theorem allocSearchesHolderDiedIdle : Obligations.AllocSearchesHolderDiedIdle :=
  fun _ _ => ⟨fun _ => alloc_eq_some, alloc_eq_none⟩

/-! ## The note events by channel and mode (R430, R438, R440) -/

section

variable {s : State} {ch key : BitVec 8} {vel : F32}

theorem exec_noteOn_of_legal (hkey : key.toNat ≤ 127) : exec (.noteOn ch key vel) s = .next (noteOn ch key vel s) := by
  rw [exec_noteOn_eq, if_pos hkey]

theorem exec_noteOff_of_legal (hkey : key.toNat ≤ 127) : exec (.noteOff ch key) s = .next (noteOff ch key s) := by
  rw [exec_noteOff_eq, if_pos hkey]

theorem noteOn_otherChannel (h : ch ≠ s.cfg.channel) : noteOn ch key vel s = s := if_pos h

theorem noteOff_otherChannel (h : ch ≠ s.cfg.channel) : noteOff ch key s = s := if_pos h

theorem noteOn_assigns (hch : ch = s.cfg.channel) (hm : s.cfg.mode ≠ .portamento) {v : Slot}
    (ha : alloc key s = some v) :
    noteOn ch key vel s = s.setVoice v (assignVoice s.cfg key vel (s.voice v)) := by
  rw [noteOn_pool hch hm, ha]
  rfl

/-- A note without a voice is dropped. -/
theorem noteOn_drops (hm : s.cfg.mode ≠ .portamento) (ha : alloc key s = none) : noteOn ch key vel s = s := by
  by_cases hch : ch = s.cfg.channel
  · rw [noteOn_pool hch hm, ha]
    rfl
  · exact noteOn_otherChannel hch

theorem noteOn_portamento (hch : ch = s.cfg.channel) (hm : s.cfg.mode = .portamento) :
    noteOn ch key vel s =
      (s.setGlide (portaGlide key s)).setVoice 0 (assignVoice s.cfg key vel (s.voice 0)) := by
  rw [noteOn, if_neg (not_not.mpr hch), hm]
  rfl

/-- In Poly and Arpeggio mode a NOTE_OFF on the block's channel releases the voice the search finds, if any. -/
theorem noteOff_pool (hch : ch = s.cfg.channel) (hm : s.cfg.mode ≠ .portamento) :
    noteOff ch key s = ((matchOff key s).map fun v => s.setVoice v (releaseVoice s.cfg (s.voice v))).getD s := by
  rw [noteOff, if_neg (not_not.mpr hch)]
  split
  · exact absurd ‹_› hm
  all_goals cases matchOff key s <;> rfl

/-- In Portamento mode a NOTE_OFF on the block's channel releases voice 0 if it is held on the key. -/
theorem noteOff_portamento (hch : ch = s.cfg.channel) (hm : s.cfg.mode = .portamento) :
    noteOff ch key s =
      if (s.voice 0).alive = true ∧ (s.voice 0).key = key then
        s.setVoice 0 (releaseVoice s.cfg (s.voice 0)) else s := by
  simp [noteOff, hch, hm, release]

/-- With no voice held on the key a NOTE_OFF changes nothing, whatever the channel and the mode. -/
theorem noteOff_noMatch (h : ∀ u, ¬ ((s.voice u).alive = true ∧ (s.voice u).key = key)) :
    noteOff ch key s = s := by
  by_cases hch : ch = s.cfg.channel
  · by_cases hm : s.cfg.mode = .portamento
    · rw [noteOff_portamento hch hm, if_neg (h 0)]
    · rw [noteOff_pool hch hm, matchOff_eq_none.mpr h]
      rfl
  · exact noteOff_otherChannel hch

end

/-- Settles O19: the search finds no voice. -/
theorem noteOnIsDroppedWhenAllAreHeld : Obligations.NoteOnIsDroppedWhenAllAreHeld := by
  intro s ch key vel hkey hm hheld
  have ha : alloc key s = none := alloc_eq_none.mpr fun u =>
    have ⟨halive, hdied, hother⟩ := hheld u
    ⟨hdied, halive, hother⟩
  rw [exec_noteOn_of_legal hkey, noteOn_drops hm ha]

/-- Settles O20: both note events test the channel first. -/
theorem otherChannelNotesAreIgnored : Obligations.OtherChannelNotesAreIgnored := by
  intro s ch key vel hkey hch
  rw [exec_noteOn_of_legal hkey, exec_noteOff_of_legal hkey, noteOn_otherChannel hch, noteOff_otherChannel hch]
  exact ⟨rfl, rfl⟩

/-- Settles O22: the search finds the first slot that matches, and without a match no mode releases a voice. -/
theorem noteOffMatchesTheLowestHeldVoice : Obligations.NoteOffMatchesTheLowestHeldVoice := by
  refine fun key s => ⟨fun ch hkey hnone => ?_, fun _ => matchOff_eq_some, matchOff_eq_none⟩
  rw [exec_noteOff_of_legal hkey, noteOff_noMatch hnone]

/-! ## Portamento (R436, R440) -/

section

variable {s : State} (key : BitVec 8)

/-- Voice 0 sounds and the glide time is positive: the glide starts. -/
theorem portaGlide_glides (halive : (s.voice 0).alive = true) (htime : Fp.gt s.cfg.portaTime Fp.pos0 = true) :
    portaGlide key s = ⟨s.glide.cur, Fp.ofInt key.toNat,
      Fp.div (Fp.sub (Fp.ofInt key.toNat) s.glide.cur) s.cfg.portaTime⟩ := by
  simp [portaGlide, halive, htime]

/-- Otherwise the pitch jumps. -/
theorem portaGlide_jumps (h : (s.voice 0).alive = false ∨ Fp.gt s.cfg.portaTime Fp.pos0 = false) :
    portaGlide key s = ⟨Fp.ofInt key.toNat, Fp.ofInt key.toNat, Fp.pos0⟩ := by
  rcases h with h | h <;> simp [portaGlide, h]

end

/-- Settles O21: the glide of `portaGlide`, then voice 0. -/
theorem portamentoNoteOnGlidesVoiceZero : Obligations.PortamentoNoteOnGlidesVoiceZero := by
  intro s ch key vel hkey hch hm
  refine ⟨portaGlide key s, ?_, portaGlide_glides key, portaGlide_jumps key⟩
  rw [exec_noteOn_of_legal hkey, noteOn_portamento hch hm]

/-- Settles O24: the two cases of `noteOff_portamento`. -/
theorem portamentoNoteOffExaminesVoiceZero : Obligations.PortamentoNoteOffExaminesVoiceZero := by
  intro s ch key hkey hch hm
  rw [exec_noteOff_of_legal hkey, noteOff_portamento hch hm]
  exact ⟨fun h => by rw [if_pos h], fun h => by rw [if_neg h]⟩

/-! ## What an assigned and a released voice hold (R433, R434) -/

/-- Writing a voice changes no register but that voice's, no frame, neither port, and gives no response. -/
theorem setVoice_sameBut (s : State) (v : Slot) (x : Voice) :
    SameRegsBut (ofVoice v) s (s.setVoice v x) ∧ SameFrames s (s.setVoice v x) ∧ SamePorts s (s.setVoice v x) ∧
      NoResponse s (s.setVoice v x) := by
  refine ⟨fun r hr => ?_, fun _ => rfl, ⟨rfl, rfl⟩, rfl, rfl⟩
  cases r with
  | voice u f =>
    have huv : u ≠ v := by
      rintro rfl
      exact hr ⟨f, rfl⟩
    exact congrArg (readVoice f) (State.setVoice_voice_other s u v x huv)
  | _ => rfl

/-- A note-on keeps the oscillator phases and the smoothed samples, and of the LFO cursors those without NOTE_SYNC. -/
theorem syncLfos_get (c : Cfg) (osc : Vector OscState 2) (o : OscIx) :
    (syncLfos c osc)[o].phase = osc[o].phase ∧ (syncLfos c osc)[o].prev = osc[o].prev ∧
      ∀ d : DestIx, (syncLfos c osc)[o].lfoPh[d] =
        if (c.osc[o].lfo[d]).noteSync then Fp.pos0 else osc[o].lfoPh[d] := by
  rw [syncLfos, vec2_get]
  exact ⟨rfl, rfl, fun d => vec6_get _ d⟩

/-- Settles O18: the assigned voice field by field, and the frame of its write. -/
theorem noteOnAssignsTheVoice : Obligations.NoteOnAssignsTheVoice := by
  intro s ch key vel v hkey hch hm ha
  refine ⟨_, exec_noteOn_of_legal hkey, ?_⟩
  rw [noteOn_assigns hch hm ha, State.setVoice_voice_same]
  exact ⟨rfl, rfl, rfl, rfl, rfl, rfl, rfl, rfl, rfl, syncLfos_get s.cfg (s.voice v).osc, setVoice_sameBut s v _⟩

/-- Settles O23: the released voice field by field, and the frame of its write. -/
theorem noteOffReleasesTheVoice : Obligations.NoteOffReleasesTheVoice := by
  intro s ch key v hkey hch hm hv
  refine ⟨s.setVoice v (releaseVoice s.cfg (s.voice v)), ?_, ?_⟩
  · rw [exec_noteOff_of_legal hkey, noteOff_pool hch hm, hv]
    rfl
  · rw [State.setVoice_voice_same]
    exact ⟨rfl, rfl, rfl, rfl, rfl, rfl, rfl, rfl, rfl, rfl, setVoice_sameBut s v _⟩

/-! ## The first value after a note-on (R442) -/

/-- An assigned voice's envelope starts from the value captured at its assignment: it is held, at TIME 0, with the
captured value saved (R303). -/
theorem envEval_assignVoice (c : Cfg) (key : BitVec 8) (vel : F32) (v : Voice)
    (hatt : Fp.gt c.amp.attack Fp.pos0 = true) (hdec : Fp.lt c.amp.decay Fp.pos0 = false)
    (hfin : Fp.isFinite (envCapture c v .amp) = true) :
    Fp.eq (envEval c (assignVoice c key vel v) .amp).1 (envCapture c v .amp) = true := by
  obtain ⟨-, -, -, start⟩ := heldEnvelopeCorners c (assignVoice c key vel v) .amp rfl
  exact start hatt hdec hfin rfl

/-- Settles O28: the note-on assigns the voice and leaves the configuration. -/
theorem retriggerStartsFromTheCapturedValue : Obligations.RetriggerStartsFromTheCapturedValue := by
  intro s ch key vel v hkey hch hm ha hatt hdec hfin
  refine ⟨_, exec_noteOn_of_legal hkey, ?_⟩
  rw [noteOn_assigns hch hm ha, State.setVoice_voice_same]
  exact envEval_assignVoice s.cfg key vel (s.voice v) hatt hdec hfin

end Sys2Proof.Machine

end

/-! # The voice renderer (46_render.md)

Proofs of the obligations on RENDER: what the once-per-block step writes, what a sample makes of a visited and of an
unvisited slot, and what a whole block leaves are said once, and the obligations are read off. -/

section

namespace Sys2Proof.Machine

/-! ## A block: the arpeggio update, then the samples (R470, R472) -/

theorem exec_render (n : U32) (s : State) :
    exec (.render n) s = .next (renderSamples fns n.toNat (beginBlock s)) := rfl

theorem exec_render_one (s : State) : exec (.render 1#32) s = .next (renderSample fns (beginBlock s)) := rfl

section

variable {s : State}

theorem beginBlock_arpeggio (hm : s.cfg.mode = .arpeggio) : beginBlock s = arpUpdate s := by
  simp only [beginBlock, hm]

theorem beginBlock_of_ne (hm : s.cfg.mode ≠ .arpeggio) : beginBlock s = s := by
  cases h : s.cfg.mode
  case arpeggio => exact absurd h hm
  all_goals simp only [beginBlock, h]

/-- With no held voice the index restarts and the rendered slot stays (R472). -/
theorem arpUpdate_empty (h : heldSlots s = []) : arpUpdate s = s.setArp 0 s.arpVoice := dif_pos h

/-- With held voices the update selects the table's entry `index >> 1` and advances the index (R472). -/
theorem arpUpdate_held (h : heldSlots s ≠ []) :
    (heldSlots s)[(s.arpIndex.val % (2 * (heldSlots s).length)) >>> 1]? = some (arpUpdate s).arpVoice ∧
    (arpUpdate s).arpIndex.val =
      (s.arpIndex.val % (2 * (heldSlots s).length) + 1) % (2 * (heldSlots s).length) := by
  have hpos : 0 < (heldSlots s).length := List.length_pos_iff.mpr h
  have hsel : s.arpIndex.val % (2 * (heldSlots s).length) / 2 < (heldSlots s).length := by
    have := Nat.mod_lt s.arpIndex.val (Nat.mul_pos two_pos hpos)
    omega
  rw [arpUpdate, dif_neg h, Nat.shiftRight_one]
  simp [List.getElem?_eq_getElem hsel]

end

/-- The note table reads the ALIVE flags only. -/
theorem heldSlots_congr {s t : State} (h : ∀ v, (t.voice v).alive = (s.voice v).alive) :
    heldSlots t = heldSlots s := by
  simp only [heldSlots, h]

/-! ## What a block leaves (R161, R470) -/

section

variable (F : Config.Fns) (n : Nat) (s : State)

theorem renderSamples_machine : SameMachine s (renderSamples F n s) :=
  renderSamples_keeps F (SameMachine s) (fun t h => h.trans (renderSample_machine F t).1) n s (.refl s)

theorem renderSamples_writeCursor :
    (renderSamples F n s).writeCursor.val = (s.writeCursor.val + n) % 44100 := by
  induction n generalizing s with
  | zero => exact (Nat.mod_eq_of_lt s.writeCursor.isLt).symm
  | succ n ih =>
    obtain ⟨-, -, hcursor⟩ := renderSample_machine F s
    rw [renderSamples, ih, hcursor, nextCursor_add]

theorem renderBlock_sameNote (v : Slot) :
    (s.voice v).SameNote ((renderSamples F n (beginBlock s)).voice v) :=
  renderBlock_voices F (fun v => (s.voice v).SameNote)
    (fun _ x c gc acc g hx => hx.trans (voiceSample_sameNote F c gc x acc g)) n s (fun v => .refl (s.voice v)) v

/-- A died voice is as before (R474). -/
theorem renderBlock_died {v : Slot} (h : (s.voice v).died = true) :
    (renderSamples F n (beginBlock s)).voice v = s.voice v := by
  refine renderBlock_voices F (fun u x => u = v → x = s.voice v) ?_ n s (fun u hu => hu ▸ rfl) v rfl
  intro u x c gc acc g hx huv
  rw [hx huv, voiceSample_died F c gc acc g h]

theorem heldSlots_renderBlock : heldSlots (renderSamples F n (beginBlock s)) = heldSlots s :=
  heldSlots_congr fun v => (renderBlock_sameNote F n s v).alive

theorem beginBlock_cfg : (beginBlock s).cfg = s.cfg := by
  obtain ⟨i, u, e⟩ := beginBlock_writes s
  rw [e, State.setArp_cfg]

theorem renderBlock_cfg : (renderSamples F n (beginBlock s)).cfg = s.cfg :=
  (renderSamples_machine F n (beginBlock s)).cfg.trans (beginBlock_cfg s)

end

/-- Settles O33: no sample follows the once-per-block step. -/
theorem renderZeroOnlyMovesTheArpeggio : Obligations.RenderZeroOnlyMovesTheArpeggio := by
  have hzero : ∀ s, exec (.render 0#32) s = .next (beginBlock s) := fun _ => rfl
  refine ⟨fun s hm => ?_, fun s _ => ?_⟩
  · rw [hzero, beginBlock_of_ne hm]
  · obtain ⟨i, v, e⟩ := beginBlock_writes s
    exact ⟨i, v, by rw [hzero, e]⟩

/-- The samples leave what the update of a block with held voices wrote (R472). -/
theorem renderBlock_selects (F : Config.Fns) (n : Nat) {s : State} (hm : s.cfg.mode = .arpeggio)
    (h : heldSlots s ≠ []) :
    (heldSlots s)[(s.arpIndex.val % (2 * (heldSlots s).length)) >>> 1]? =
      some (renderSamples F n (beginBlock s)).arpVoice ∧
    (renderSamples F n (beginBlock s)).arpIndex.val =
      (s.arpIndex.val % (2 * (heldSlots s).length) + 1) % (2 * (heldSlots s).length) := by
  have hsame := renderSamples_machine F n (beginBlock s)
  rw [hsame.arpIndex, hsame.arpVoice, beginBlock_arpeggio hm]
  exact arpUpdate_held h

/-- Settles O34: the table is a filter of the slots in order, and the samples leave what the update wrote. -/
theorem arpeggioUpdateSelectsHeldVoices : Obligations.ArpeggioUpdateSelectsHeldVoices := by
  intro s n hm
  have hslots : allSlots.Pairwise (· < ·) ∧ ∀ v : Slot, v ∈ allSlots := by decide
  refine ⟨hslots.1.filter _, fun v => by simp [heldSlots, hslots.2], _, exec_render n s, fun h => ?_,
    renderBlock_selects fns n.toNat hm⟩
  have hsame := renderSamples_machine fns n.toNat (beginBlock s)
  rw [hsame.arpIndex, hsame.arpVoice, beginBlock_arpeggio hm, arpUpdate_empty h]
  exact ⟨rfl, rfl⟩

/-- A run of blocks in Arpeggio mode, from any index: each advances the index by one modulo `2N`, and the last one
selects the entry of the index it finds (R483). -/
theorem execAll_render_arpeggio (counts : List U32) (n : U32) {s : State} (hm : s.cfg.mode = .arpeggio)
    (h : heldSlots s ≠ []) :
    ∃ t, execAll ((counts ++ [n]).map .render) s = .next t ∧
      (heldSlots s)[((s.arpIndex.val + counts.length) % (2 * (heldSlots s).length)) >>> 1]? = some t.arpVoice ∧
      t.cfg.mode = .arpeggio ∧ heldSlots t = heldSlots s := by
  induction counts generalizing s with
  | nil =>
    refine ⟨_, rfl, (renderBlock_selects fns n.toNat hm h).1, ?_, heldSlots_renderBlock fns n.toNat s⟩
    rw [renderBlock_cfg, hm]
  | cons c counts ih =>
    have hheld := heldSlots_renderBlock fns c.toNat s
    have hmode : (renderSamples fns c.toNat (beginBlock s)).cfg.mode = .arpeggio := by rw [renderBlock_cfg, hm]
    obtain ⟨t, ht, hvoice, htm, hth⟩ := ih hmode (hheld ▸ h)
    obtain ⟨-, hidx⟩ := renderBlock_selects fns c.toNat hm h
    rw [hheld, hidx, Nat.mod_add_mod, Nat.add_assoc, Nat.mod_add_mod, Nat.add_comm 1] at hvoice
    exact ⟨t, ht, hvoice, htm, hth.trans hheld⟩

/-- Settles O35: the run of blocks from index 0. -/
theorem arpeggioIndexLaw : Obligations.ArpeggioIndexLaw := by
  intro s counts n hm hidx h
  obtain ⟨t, ht, hvoice, htm, hth⟩ := execAll_render_arpeggio counts n hm h
  rw [hidx, Nat.zero_add] at hvoice
  exact ⟨t, ht, hvoice, by simp only [visited, htm], hth⟩

/-- Settles O32: the samples of the two parts are one run, and the arpeggio update of the second part is none outside
Arpeggio mode and, from the registers put back, selects the same again in it. -/
theorem renderSplitsIntoBlocks : Obligations.RenderSplitsIntoBlocks := by
  have hsum {m n : U32} (h : m.toNat + n.toNat < 2 ^ 32) (s : State) : exec (.render (m + n)) s =
      .next (renderSamples fns n.toNat (renderSamples fns m.toNat (beginBlock s))) := by
    rw [exec_render, BitVec.toNat_add_of_lt h, renderSamples_add]
  constructor
  · intro s m n hm hlt
    have hm' : (renderSamples fns m.toNat (beginBlock s)).cfg.mode ≠ .arpeggio := by rwa [renderBlock_cfg]
    rw [hsum hlt]
    simp only [execAll, exec_render, beginBlock_of_ne hm']
  · intro s m n hm hlt
    have hfirst := renderSamples_machine fns m.toNat (beginBlock s)
    have hheld := heldSlots_renderBlock fns m.toNat s
    have hcfg := renderBlock_cfg fns m.toNat s
    refine ⟨_, _, exec_render m s, hsum hlt s, ?_, ?_⟩
    · generalize renderSamples fns m.toNat (beginBlock s) = t at *
      rw [beginBlock_arpeggio hm] at hfirst
      have hmode : (t.setArp s.arpIndex s.arpVoice).cfg.mode = .arpeggio := by rw [State.setArp_cfg, hcfg, hm]
      rw [exec_render, beginBlock_arpeggio hmode, arpUpdate_again hheld hfirst.arpVoice hfirst.arpIndex]
    · have hrest := renderSamples_machine fns n.toNat (renderSamples fns m.toNat (beginBlock s))
      exact ⟨hrest.arpVoice, hrest.arpIndex⟩

/-! ## The glide (R473) -/

section

variable (F : Config.Fns)

theorem glideSample_glide (s : State) :
    (glideSample s).glide = if s.cfg.mode = .portamento then glideStep s.glide else s.glide := by
  cases h : s.cfg.mode <;> simp [glideSample, h]

/-- The voices of a sample leave the glide that its glide step left. -/
theorem renderSample_glide (s : State) : (renderSample F s).glide = (glideSample s).glide :=
  foldSlots_keeps F (fun t => t.glide = (glideSample s).glide) (fun _ _ h => h) _ _ rfl

theorem renderSamples_glide_of_ne (n : Nat) {s : State} (hm : s.cfg.mode ≠ .portamento) :
    (renderSamples F n s).glide = s.glide := by
  refine (renderSamples_keeps F (fun t => t.cfg.mode ≠ .portamento ∧ t.glide = s.glide) ?_ n s ⟨hm, rfl⟩).2
  rintro t ⟨htm, ht⟩
  rw [(renderSample_machine F t).1.cfg, renderSample_glide, glideSample_glide, if_neg htm]
  exact ⟨htm, ht⟩

end

section

variable {g : Glide}

theorem glideStep_up (h : Fp.gt g.rate Fp.pos0 = true) :
    glideStep g = { g with
      cur := if Fp.gt (Fp.add g.cur (Fp.mul g.rate Fp.dt)) g.target then g.target
        else Fp.add g.cur (Fp.mul g.rate Fp.dt) } := if_pos h

theorem glideStep_down (h : Fp.lt g.rate Fp.pos0 = true) :
    glideStep g = { g with
      cur := if Fp.lt (Fp.add g.cur (Fp.mul g.rate Fp.dt)) g.target then g.target
        else Fp.add g.cur (Fp.mul g.rate Fp.dt) } := by
  have hgt : ¬ Fp.gt g.rate Fp.pos0 = true := fun hgt => by simp [Fp.not_lt_pos0_of_gt hgt] at h
  exact (if_neg hgt).trans (if_pos h)

/-- A step writes the pitch only. -/
theorem glideStep_writes (g : Glide) : ∃ x, glideStep g = { g with cur := x } := by
  unfold glideStep
  split
  · exact ⟨_, rfl⟩
  · split
    · exact ⟨_, rfl⟩
    · exact ⟨g.cur, rfl⟩

theorem glideStep_hold (hgt : Fp.gt g.rate Fp.pos0 = false) (hlt : Fp.lt g.rate Fp.pos0 = false) :
    glideStep g = g := by
  simp [glideStep, hgt, hlt]

end

theorem Fp.lt_self (x : F32) : Fp.lt x x = false := by
  simp [Fp.lt]

/-- A pitch replaced by the target where it has passed it has not passed it. -/
theorem not_passed_of_stop (passed : F32 → F32 → Bool) (hself : ∀ x, passed x x = false) (x target : F32) :
    passed (if passed x target then target else x) target = false := by
  cases h : passed x target
  · exact h
  · exact hself target

/-- Settles O41: one glide step in Portamento mode only, by the sign of the rate. -/
theorem glideStepsAndStopsAtTheTarget : Obligations.GlideStepsAndStopsAtTheTarget := by
  constructor
  · intro s
    obtain ⟨i, v, e⟩ := beginBlock_writes s
    refine ⟨_, exec_render_one s, ?_⟩
    rw [renderSample_glide, e, glideSample_glide]
    rfl
  intro g
  obtain ⟨x, hx⟩ := glideStep_writes g
  refine ⟨by rw [hx], by rw [hx], fun h => ?_, fun h => ?_, fun hgt hlt => ?_⟩
  · rw [glideStep_up h]
    exact ⟨rfl, not_passed_of_stop Fp.gt Fp.lt_self _ g.target⟩
  · rw [glideStep_down h]
    exact ⟨rfl, not_passed_of_stop Fp.lt Fp.lt_self _ g.target⟩
  · rw [glideStep_hold hgt hlt]

/-! ## Visited and unvisited slots (R471, R474, R475) -/

section

variable (F : Config.Fns)

theorem nodup_visited (s : State) : (visited s).Nodup := by
  unfold visited
  split
  · decide
  · exact List.nodup_singleton _
  · exact List.nodup_singleton _

/-- The visited slots are those of the mode and of ARP_VOICE. -/
theorem visited_congr {s t : State} (h : SameMachine s t) : visited t = visited s := by
  simp only [visited, h.cfg, h.arpVoice]

/-- A visited slot by the mode of the state before the block and the ARP_VOICE of the state after it. -/
theorem visitsSlot_iff {s t : State} (h : SameMachine (beginBlock s) t) (v : Slot) :
    VisitsSlot s t v ↔ v ∈ visited (beginBlock s) := by
  have hslots : ∀ v : Slot, v ∈ allSlots := by decide
  rw [VisitsSlot, visited, h.arpVoice, beginBlock_cfg]
  cases s.cfg.mode <;> simp [hslots]

/-- The frame that ends a sample leaves what the voices made of the pool and of the generator. -/
theorem renderSample_voice (s : State) (v : Slot) : (renderSample F s).voice v = (mixVoices F s).2.voice v := rfl

theorem renderSample_prng (s : State) : (renderSample F s).prng = (mixVoices F s).2.prng := rfl

theorem renderSlot_voice_same (r : F32 × State) (v : Slot) : (renderSlot F r v).2.voice v =
    (voiceSample F r.2.cfg r.2.glide.cur (r.2.voice v) r.1 r.2.prng).voice := State.setVoice_voice_same _ _ _

theorem renderSlot_voice_other (r : F32 × State) {u v : Slot} (h : u ≠ v) :
    (renderSlot F r v).2.voice u = r.2.voice u := State.setVoice_voice_other _ _ _ _ h

/-- A sample leaves the voice of a slot it does not visit (R471). -/
theorem renderSample_voice_unvisited {s : State} {v : Slot} (h : v ∉ visited s) :
    (renderSample F s).voice v = s.voice v := by
  obtain ⟨g, hg⟩ := glideSample_writes s
  rw [renderSample_voice, mixVoices, foldSlots_other F v _ _ h, hg, State.setGlide_voice]

theorem renderSamples_voice_unvisited (n : Nat) {s : State} {v : Slot} (h : v ∉ visited s) :
    (renderSamples F n s).voice v = s.voice v := by
  refine (renderSamples_keeps F (fun t => SameMachine s t ∧ t.voice v = s.voice v) ?_ n s ⟨.refl s, rfl⟩).2
  rintro t ⟨hsame, ht⟩
  have hv : v ∉ visited t := by rwa [visited_congr hsame]
  exact ⟨hsame.trans (renderSample_machine F t).1, (renderSample_voice_unvisited F hv).trans ht⟩

/-- Visiting a list of slots once each samples the voice of every slot in it, with some sum and generator. -/
theorem foldSlots_voice (vs : List Slot) (hnd : vs.Nodup) {v : Slot} (hv : v ∈ vs) (r : F32 × State) :
    ∃ acc g, (vs.foldl (renderSlot F) r).2.voice v =
      (voiceSample F r.2.cfg r.2.glide.cur (r.2.voice v) acc g).voice := by
  induction vs generalizing r with
  | nil => cases hv
  | cons u us ih =>
    obtain ⟨hu, hus⟩ := List.nodup_cons.mp hnd
    rcases List.mem_cons.mp hv with rfl | hv
    · refine ⟨r.1, r.2.prng, ?_⟩
      rw [List.foldl_cons, foldSlots_other F v us _ hu, renderSlot_voice_same]
    · have hvu : v ≠ u := fun e => hu (e ▸ hv)
      obtain ⟨acc, g, h⟩ := ih hus hv (renderSlot F r u)
      rw [renderSlot_voice_other F r hvu] at h
      exact ⟨acc, g, h⟩

/-- A sample makes of the voice of a visited slot what a voice sample makes of it (R480). -/
theorem renderSample_voice_visited {s : State} {v : Slot} (h : v ∈ visited s) :
    ∃ gc acc g, (renderSample F s).voice v = (voiceSample F s.cfg gc (s.voice v) acc g).voice := by
  obtain ⟨x, hx⟩ := glideSample_writes s
  obtain ⟨acc, g, hv⟩ := foldSlots_voice F (visited s) (nodup_visited s) h (Fp.pos0, glideSample s)
  rw [hx] at hv
  refine ⟨x.cur, acc, g, ?_⟩
  rw [renderSample_voice, mixVoices, hx]
  exact hv

/-- RENDER 1 samples the voice of every slot that its mode visits. -/
theorem renderOne_voice_visited {s : State} {v : Slot} (h : VisitsSlot s (renderSample F (beginBlock s)) v) :
    ∃ gc acc g, (renderSample F (beginBlock s)).voice v = (voiceSample F s.cfg gc (s.voice v) acc g).voice := by
  rw [visitsSlot_iff (renderSample_machine F (beginBlock s)).1] at h
  obtain ⟨gc, acc, g, hv⟩ := renderSample_voice_visited F h
  obtain ⟨i, u, e⟩ := beginBlock_writes s
  refine ⟨gc, acc, g, ?_⟩
  rw [hv, e]
  rfl

end

/-- Settles O36: a died voice through a block, and at one visit. -/
theorem renderSkipsDiedVoices : Obligations.RenderSkipsDiedVoices := by
  refine ⟨fun s n v h => ⟨_, exec_render n s, renderBlock_died fns n.toNat s h⟩, fun s acc v h => ?_⟩
  rw [renderSlot, voiceSample_died _ _ _ _ _ h, State.setVoice_self, State.setPrng_self]

/-- Settles O37: the other slots are not visited. -/
theorem renderHoldsUnvisitedVoices : Obligations.RenderHoldsUnvisitedVoices := by
  intro s n
  have hsame := renderSamples_machine fns n.toNat (beginBlock s)
  have hold : ∀ v, ¬ VisitsSlot s (renderSamples fns n.toNat (beginBlock s)) v →
      (renderSamples fns n.toNat (beginBlock s)).voice v = s.voice v := by
    intro v hv
    rw [visitsSlot_iff hsame] at hv
    obtain ⟨i, u, e⟩ := beginBlock_writes s
    rw [renderSamples_voice_unvisited fns _ hv, e, State.setArp_voice]
  refine ⟨_, exec_render n s, fun hm v hv => hold v ?_, fun hm v hv => hold v ?_⟩
  · simp [VisitsSlot, hm, hv]
  · simp [VisitsSlot, hm, hv]

/-! ## TIME and DIED at a visit (R475, R482) -/

theorem tick_toNat (t : U32) : (tick t).toNat = min (t.toNat + 1) 0xFFFFFFFF := by
  unfold tick
  split
  · subst_vars
    rfl
  · bv_omega

section

variable (F : Config.Fns) {c : Cfg} (gc : F32) {v : Voice} (acc : F32) (g : Prng)

/-- A voice that is not died ages by one sample, and dies just when its amplitude envelope has expired. -/
theorem voiceSample_time_died (h : v.died = false) :
    (voiceSample F c gc v acc g).voice.time = tick v.time ∧
    (voiceSample F c gc v acc g).voice.died = (envEval c (ageVoice v) .amp).2 := by
  rcases voiceSample_cases F c gc v acc g with ⟨hd, -⟩ | ⟨-, -, e⟩ | ⟨-, -, hx, e⟩
  · simp [h] at hd
  · rw [e]
    exact ⟨rfl, rfl⟩
  · rw [e, hx]
    exact ⟨rfl, h⟩

/-- A silent voice only ages, and dies when its amplitude envelope has expired. -/
theorem voiceSample_silent (h : v.died = false) (hz : Fp.eq (envEval c (ageVoice v) .amp).1 Fp.pos0 = true) :
    voiceSample F c gc v acc g = ⟨acc, { ageVoice v with died := (envEval c (ageVoice v) .amp).2 }, g⟩ := by
  rcases voiceSample_cases F c gc v acc g with ⟨hd, -⟩ | ⟨-, -, e⟩ | ⟨-, hnz, -⟩
  · simp [h] at hd
  · exact e
  · simp [hz] at hnz

end

/-- A released voice's envelope has not expired just while its release window has not passed (R301). -/
theorem not_expired_iff {c : Cfg} {v : Voice} {w : EnvSel} (h : v.alive = false) :
    (envEval c v w).2 = false ↔ Fp.gt (envCfg c w).release Fp.pos0 = true ∧
      Fp.lt (Fp.sec (v.time - v.relTime)) (Fp.mul (envCfg c w).release Fp.five) = true := by
  rw [envEval_released h]
  constructor
  · intro hx
    by_contra hwin
    rw [envReleased_expired (by simpa [imp_iff_not_or] using hwin)] at hx
    cases hx
  · rintro ⟨hrel, hwin⟩
    rw [envReleased_tail hrel hwin]

/-- Settles O38: the visited voice's TIME and DIED by `voiceSample_time_died`, the expiry by R301's branches. -/
theorem sampleAdvancesTimeAndMayKill : Obligations.SampleAdvancesTimeAndMayKill := by
  intro s v hdied
  refine ⟨_, exec_render_one s, fun hvisit => ?_⟩
  obtain ⟨gc, acc, g, hvoice⟩ := renderOne_voice_visited fns hvisit
  obtain ⟨htime, hdead⟩ := voiceSample_time_died fns (c := s.cfg) gc acc g hdied
  rw [hvoice, htime, hdead]
  refine ⟨tick_toNat _, fun ha => ?_, fun ha => not_expired_iff ha⟩
  exact congrArg Prod.snd (envEval_held (v := ageVoice (s.voice v)) ha)

/-- Settles O39: at one visit and through RENDER 1. -/
theorem silentVoiceIsSkipped : Obligations.SilentVoiceIsSkipped := by
  refine ⟨fun F c gc v acc g => voiceSample_silent F gc acc g, fun s v hdied hz => ?_⟩
  refine ⟨_, exec_render_one s, fun hvisit => ?_⟩
  obtain ⟨gc, acc, g, hvoice⟩ := renderOne_voice_visited fns hvisit
  rw [hvoice, voiceSample_silent fns gc acc g hdied hz]

/-! ## The frame of a sample (R476 to R480) -/

/-- A sample writes the clamped and scaled sum of its voices at the write cursor (R479). -/
theorem read_renderOne (F : Config.Fns) {s : State} (hs : Memory.wf s.buf) :
    Memory.read (renderSample F (beginBlock s)).buf s.writeCursor.val =
      frameOf s.cfg (mixVoices F (beginBlock s)).1 := by
  obtain ⟨i, v, e⟩ := beginBlock_writes s
  obtain ⟨-, hbuf, -⟩ := renderSample_machine F (beginBlock s)
  rw [hbuf, e]
  exact Memory.read_write_same s.buf hs.1 _ _

/-- Settles O31: the frame of `read_renderOne`; a NaN clamps to the lower bound. -/
theorem renderWritesTheClampedScaledSum : Obligations.RenderWritesTheClampedScaledSum := by
  intro s hs
  have hframe := read_renderOne fns hs
  obtain ⟨i, v, e⟩ := beginBlock_writes s
  refine ⟨_, exec_render_one s, ?_, hframe, fun hnan => ?_⟩
  · rw [(renderSample_machine fns (beginBlock s)).2.2, e]
    rfl
  · obtain ⟨hclamp, -⟩ := (Fp.clampStaysBetweenItsBounds _ Fp.negOne Fp.one).1 hnan
    rw [hframe, frameOf, hclamp]

/-- A voice sample is R474 to R478's, at the base pitch that the mode gives before the bend. -/
theorem sampledVoice_voiceSample (c : Cfg) (gc : F32) (v : Voice) (acc : F32) (g : Prng) {pitch : F32}
    (hpitch : basePitch c gc v = Fp.add pitch (Fp.mul c.pitchBend Fp.two)) :
    SampledVoice c pitch v (voiceSample fns c gc v acc g).voice acc (voiceSample fns c gc v acc g).acc g
      (voiceSample fns c gc v acc g).prng := by
  rcases voiceSample_cases fns c gc v acc g with ⟨hd, e⟩ | ⟨hd, hz, e⟩ | ⟨hd, hz, -, e⟩ <;> rw [e]
  · exact ⟨fun _ => ⟨rfl, rfl, rfl⟩, fun h => by simp [hd] at h, fun h => by simp [hd] at h⟩
  · exact ⟨fun h => by simp [hd] at h, fun _ _ => ⟨rfl, rfl, rfl⟩, fun _ h => by simp [hz] at h⟩
  · rw [soundVoice_eq fns c gc _ _ (ageVoice v) acc g hpitch]
    exact ⟨fun h => by simp [hd] at h, fun _ h => by simp [hz] at h, fun _ _ => ⟨rfl, rfl, rfl⟩⟩

/-- A visit to a slot samples its voice. -/
theorem sampledVoice_renderSlot (r : F32 × State) (v : Slot) {pitch : F32}
    (hpitch : basePitch r.2.cfg r.2.glide.cur (r.2.voice v) =
      Fp.add pitch (Fp.mul r.2.cfg.pitchBend Fp.two)) :
    SampledVoice r.2.cfg pitch (r.2.voice v) ((renderSlot fns r v).2.voice v) r.1 (renderSlot fns r v).1
      r.2.prng (renderSlot fns r v).2.prng := by
  rw [renderSlot_voice_same]
  exact sampledVoice_voiceSample r.2.cfg r.2.glide.cur (r.2.voice v) r.1 r.2.prng hpitch

/-- In a mode that visits one slot the sample is that slot's, from `+0.0` and at the pitch after the glide step. -/
theorem sampledVoice_renderSample {s : State} {v : Slot} (hv : visited s = [v]) {pitch : F32}
    (hpitch : basePitch s.cfg (glideSample s).glide.cur (s.voice v) =
      Fp.add pitch (Fp.mul s.cfg.pitchBend Fp.two)) :
    SampledVoice s.cfg pitch (s.voice v) ((renderSample fns s).voice v) Fp.pos0 (mixVoices fns s).1 s.prng
      (renderSample fns s).prng := by
  have hmix : mixVoices fns s = renderSlot fns (Fp.pos0, glideSample s) v := by rw [mixVoices, hv]; rfl
  obtain ⟨x, hx⟩ := glideSample_writes s
  rw [renderSample_voice, renderSample_prng, hmix]
  rw [hx] at hpitch ⊢
  exact sampledVoice_renderSlot (Fp.pos0, s.setGlide x) v hpitch

/-- The sum and the state of a sample in Poly mode after its first `k` slots (R471). -/
def polyRun (F : Config.Fns) (s : State) (k : Nat) : F32 × State :=
  (allSlots.take k).foldl (renderSlot F) (Fp.pos0, s)

section

variable (F : Config.Fns) {s : State}

theorem polyRun_all (hm : s.cfg.mode = .poly) : polyRun F s 6 = mixVoices F s := by
  simp only [mixVoices, visited, glideSample, hm]
  rfl

theorem polyRun_succ (s : State) (v : Slot) : polyRun F s (v + 1) = renderSlot F (polyRun F s v) v := by
  have htake : ∀ v : Slot, allSlots.take (v + 1) = allSlots.take v ++ [v] := by decide
  rw [polyRun, htake, List.foldl_append]
  rfl

theorem polyRun_cfg (s : State) (k : Nat) : (polyRun F s k).2.cfg = s.cfg :=
  foldSlots_keeps F (fun t => t.cfg = s.cfg) (fun _ _ h => h) _ _ rfl

/-- A slot's voice is as before until its turn. -/
theorem polyRun_voice_before (s : State) (v : Slot) : (polyRun F s v).2.voice v = s.voice v := by
  have hlater : ∀ v : Slot, v ∉ allSlots.take v := by decide
  exact foldSlots_other F v _ _ (hlater v)

/-- A slot's voice stays as its turn left it. -/
theorem polyRun_voice_after (hm : s.cfg.mode = .poly) (v : Slot) :
    (renderSample F s).voice v = (renderSlot F (polyRun F s v) v).2.voice v := by
  have hearlier : ∀ v : Slot, v ∉ allSlots.drop (v + 1) := by decide
  calc (renderSample F s).voice v = (polyRun F s 6).2.voice v := by rw [polyRun_all F hm, renderSample_voice]
    _ = ((allSlots.drop (v + 1)).foldl (renderSlot F) (polyRun F s (v + 1))).2.voice v := by
      rw [polyRun, polyRun, ← List.foldl_append, List.take_append_drop]
      rfl
    _ = (renderSlot F (polyRun F s v) v).2.voice v := by
      rw [foldSlots_other F v _ _ (hearlier v), polyRun_succ]

end

/-- In Poly mode each slot is sampled at its own key, with the sum and the generator of the slot before (R471). -/
theorem sampledVoice_poly {s : State} (hm : s.cfg.mode = .poly) (v : Slot) :
    SampledVoice s.cfg (Fp.ofInt (s.voice v).key.toNat) (s.voice v) ((renderSample fns s).voice v)
      (polyRun fns s v).1 (polyRun fns s (v + 1)).1 (polyRun fns s v).2.prng (polyRun fns s (v + 1)).2.prng := by
  have h := sampledVoice_renderSlot (polyRun fns s v) v (pitch := Fp.ofInt (s.voice v).key.toNat) (by
    rw [polyRun_cfg, polyRun_voice_before, basePitch, hm])
  rwa [polyRun_cfg, polyRun_voice_before, ← polyRun_voice_after fns hm, ← polyRun_succ] at h

/-- Settles O40: in Poly mode the chain of `polyRun`, in the other modes the one visited slot. -/
theorem soundingVoiceMakesTheFrame : Obligations.SoundingVoiceMakesTheFrame := by
  intro s hs
  refine ⟨_, (mixVoices fns (beginBlock s)).1, exec_render_one s, read_renderOne fns hs, fun hm => ?_, fun hm => ?_,
    fun hm => ?_⟩
  · rw [beginBlock_of_ne (by simp [hm])]
    refine ⟨fun k => (polyRun fns s k).1, fun k => (polyRun fns s k).2.prng, rfl, rfl, ?_, ?_, sampledVoice_poly hm⟩
    · exact congrArg Prod.fst (polyRun_all fns hm)
    · exact congrArg (fun r => r.2.prng) (polyRun_all fns hm)
  · obtain ⟨i, u, e⟩ := beginBlock_writes s
    rw [(renderSample_machine fns (beginBlock s)).1.arpVoice, e]
    refine sampledVoice_renderSample (s := s.setArp i u) ?_ ?_
    · simp only [visited, State.setArp_cfg, hm, State.setArp_arpVoice]
    · simp only [basePitch, State.setArp_cfg, hm, State.setArp_voice]
  · rw [beginBlock_of_ne (by simp [hm])]
    refine sampledVoice_renderSample (by simp only [visited, hm]) ?_
    rw [glideSample_glide, if_pos hm]
    simp only [basePitch, hm]

/-! ## What RENDER writes (R161, R435, R470) -/

/-- The registers of a note read as before. -/
theorem Voice.SameNote.readVoice {v w : Voice} (h : v.SameNote w) {x : VoiceReg}
    (hx : ¬ (x ≠ .key ∧ x ≠ .vel ∧ x ≠ .relTime ∧ x ≠ .savedAmp ∧ x ≠ .savedFlt)) :
    readVoice x w = readVoice x v := by
  cases x with
  | key => exact congrArg (BitVec.setWidth 32) h.key
  | vel => exact h.vel
  | relTime => exact h.relTime
  | savedAmp => exact h.savedAmp
  | savedFlt => exact h.savedFlt
  | _ => exact absurd (by simp) hx

section

variable (F : Config.Fns) (n : Nat) (s : State)

/-- A block writes no global register but the generator's. -/
theorem renderBlock_readGlobal {g : GlobalReg} (hA : g ≠ .prngA) (hB : g ≠ .prngB) :
    readGlobal g (renderSamples F n (beginBlock s)) = readGlobal g s := by
  have hcfg := renderBlock_cfg F n s
  cases g with
  | prngA => exact absurd rfl hA
  | prngB => exact absurd rfl hB
  | _ => simp only [readGlobal, hcfg]

/-- A block writes no status register but the write cursor, in Arpeggio mode the arpeggio's and in Portamento mode the
glide pitch. -/
theorem renderBlock_readStat {r : StatReg} (hw : r ≠ .writeCursor)
    (harp : s.cfg.mode = .arpeggio → r ≠ .arpIndex ∧ r ≠ .arpVoice)
    (hglide : s.cfg.mode = .portamento → r ≠ .glideCur) :
    readStat r (renderSamples F n (beginBlock s)) = readStat r s := by
  obtain ⟨i, u, e⟩ := beginBlock_writes s
  have hsame := renderSamples_machine F n (beginBlock s)
  cases r with
  | writeCursor => exact absurd rfl hw
  | id => rfl
  | version => rfl
  | status => rw [readStat, readStat, hsame.status, e, State.setArp_status]
  | readCursor => rw [readStat, readStat, hsame.readCursor, e, State.setArp_readCursor]
  | glideTarget => rw [readStat, readStat, hsame.target, e, State.setArp_glide]
  | glideRate => rw [readStat, readStat, hsame.glideRate, e, State.setArp_glide]
  | arpIndex =>
    have hm : s.cfg.mode ≠ .arpeggio := fun hm => (harp hm).1 rfl
    rw [readStat, readStat, hsame.arpIndex, beginBlock_of_ne hm]
  | arpVoice =>
    have hm : s.cfg.mode ≠ .arpeggio := fun hm => (harp hm).2 rfl
    rw [readStat, readStat, hsame.arpVoice, beginBlock_of_ne hm]
  | glideCur =>
    have hm : (beginBlock s).cfg.mode ≠ .portamento := by
      rw [beginBlock_cfg]
      exact fun hm => hglide hm rfl
    rw [readStat, readStat, renderSamples_glide_of_ne F n hm, e, State.setArp_glide]

end

/-- Settles O29: register by register, and the voices by `renderBlock_sameNote` and `renderBlock_died`. -/
theorem renderCompletesAndKeepsTheRest : Obligations.RenderCompletesAndKeepsTheRest := by
  intro s n
  obtain ⟨i, u, e⟩ := beginBlock_writes s
  have hsame := renderSamples_machine fns n.toNat (beginBlock s)
  have hnote := renderBlock_sameNote fns n.toNat s
  refine ⟨_, exec_render n s, ?cursor, ?regs, fun v => ⟨(hnote v).alive, fun h => ?died⟩, ?ports, ?response⟩
  case cursor => rw [renderSamples_writeCursor, e, State.setArp_writeCursor]
  case regs =>
    intro r hr
    obtain ⟨hw, hA, hB, harp, hglide, hvoice⟩ := by simpa only [not_or] using hr
    cases r with
    | global g =>
      exact renderBlock_readGlobal fns _ s (fun h => hA (congrArg _ h)) (fun h => hB (congrArg _ h))
    | stat r =>
      exact renderBlock_readStat fns _ s (fun h => hw (congrArg _ h))
        (fun hm => ⟨fun h => harp ⟨hm, .inl (congrArg _ h)⟩, fun h => harp ⟨hm, .inr (congrArg _ h)⟩⟩)
        (fun hm h => hglide ⟨hm, congrArg _ h⟩)
    | voice v x => exact (hnote v).readVoice fun hx => hvoice ⟨v, x, rfl, hx⟩
    | _ => simp only [readReg, renderBlock_cfg]
  case died => rw [renderBlock_died fns n.toNat s h, h]
  case ports => exact ⟨hsame.cmdFifo.trans (by rw [e]; rfl), hsame.port.trans (by rw [e]; rfl)⟩
  case response => exact ⟨hsame.rspFifo.trans (by rw [e]; rfl), hsame.inFlight.trans (by rw [e]; rfl)⟩

end Sys2Proof.Machine

end

/-! # The host commands (47_host_commands.md)

Proofs of the obligations on NOP, CFG_WRITE, REG_READ, POP_OUTPUT and RENDER_SCOPE: what each command is on its legal
operands, and what a register reads after a write to it and to another, are said once. -/

section

namespace Sys2Proof.Machine

/-! ## The commands on their legal operands (R501, R502, R505) -/

/-- A CFG_WRITE of a legal value to a register that is not read-only is the register write. -/
theorem exec_cfgWrite {a : BitVec 16} {r : Reg} {w : U32} (ha : regOfAddr a = some r) (hro : access r ≠ .ro)
    (hw : legal r w = true) (s : State) : exec (.cfgWrite a w) s = .next (writeReg r w s) := by
  simp only [exec, execCfgWrite, ha, if_neg hro, if_pos hw]

/-- A REG_READ of a mapped register responds with the register's pattern. -/
theorem exec_regRead {a : BitVec 16} {r : Reg} (ha : regOfAddr a = some r) (s : State) :
    exec (.regRead a) s = .next (respond [readReg r s] .nothing s) := by
  simp only [exec, execRegRead, ha]

/-- An OSC field of 0 or 1 names that oscillator (R203). -/
theorem oscOf_of_toNat {o : BitVec 8} {oi : OscIx} (h : o.toNat = oi.val) : oscOf o = some oi := by
  obtain rfl : o = BitVec.ofNat 8 oi.val := by simp [← h]
  fin_cases oi <;> rfl

/-- A RENDER_SCOPE of a legal oscillator responds with the preview's words. -/
theorem exec_renderScope {o : BitVec 8} {oi : OscIx} (h : o.toNat = oi.val) (n : U32) (s : State) :
    exec (.renderScope o n) s = .next (respond (scopeWords fns s.cfg.osc[oi] n.toNat) .nothing s) := by
  simp only [exec, execRenderScope, oscOf_of_toNat h]

/-- Settles O12: NOP's meaning is the state it is given. -/
theorem nopHasNoEffect : Obligations.NopHasNoEffect := fun _ => rfl

/-! ## A register read after a write to it (R155, R501) -/

/-- A word of an enumerated register's legal set is one of finitely many literals. -/
theorem eq_ofNat_of_toNat_le {w : U32} {k : Nat} (h : w.toNat ≤ k) : ∃ n ≤ k, w = BitVec.ofNat 32 n :=
  ⟨w.toNat, h, by simp⟩

/-- A legal MODE value is the code of a mode. -/
theorem modeOf_of_le {w : U32} (h : w.toNat ≤ 2) : ∃ m, modeOf w = some m ∧ modeCode m = w := by
  obtain ⟨n, hn, rfl⟩ := eq_ofNat_of_toNat_le h
  interval_cases n
  · exact ⟨.poly, rfl, rfl⟩
  · exact ⟨.arpeggio, rfl, rfl⟩
  · exact ⟨.portamento, rfl, rfl⟩

/-- A legal COMBINE value is the code of a combine law. -/
theorem lawOf_of_le {w : U32} (h : w.toNat ≤ 2) : ∃ l, lawOf w = some l ∧ lawCode l = w := by
  obtain ⟨n, hn, rfl⟩ := eq_ofNat_of_toNat_le h
  interval_cases n
  · exact ⟨.mix, rfl, rfl⟩
  · exact ⟨.mul, rfl, rfl⟩
  · exact ⟨.ring, rfl, rfl⟩

/-- A legal SHAPE value is the code of a shape. -/
theorem shapeOf_of_le {w : U32} (h : w.toNat ≤ 4) : ∃ sh, shapeOf w = some sh ∧ shapeCode sh = w := by
  obtain ⟨n, hn, rfl⟩ := eq_ofNat_of_toNat_le h
  interval_cases n
  · exact ⟨.square, rfl, rfl⟩
  · exact ⟨.saw, rfl, rfl⟩
  · exact ⟨.triangle, rfl, rfl⟩
  · exact ⟨.sine, rfl, rfl⟩
  · exact ⟨.random, rfl, rfl⟩

/-- A legal LFO FLAGS value is its two bits (R57). -/
theorem flagPair_of_le {w : U32} (h : w.toNat ≤ 3) : flagBit (w.getLsbD 0) 0 ||| flagBit (w.getLsbD 1) 1 = w := by
  obtain ⟨n, hn, rfl⟩ := eq_ofNat_of_toNat_le h
  interval_cases n <;> rfl

/-- A legal CHANNEL value is its low byte. -/
theorem setWidth_byte_of_le {w : U32} (h : w.toNat ≤ 255) : (w.setWidth 8).setWidth 32 = w := by
  apply BitVec.eq_of_toNat_eq
  simp only [BitVec.toNat_setWidth]
  omega

theorem readGlobal_writeGlobal_same {g : GlobalReg} {w : U32} (h : legal (.global g) w = true) (s : State) :
    readGlobal g (writeGlobal g w s) = w := by
  cases g with
  | mode =>
    obtain ⟨m, hm, hcode⟩ := modeOf_of_le (of_decide_eq_true h)
    simp only [writeGlobal, hm]
    exact hcode
  | channel => exact setWidth_byte_of_le (of_decide_eq_true h)
  | _ => rfl

theorem readEnv_writeEnv_same (f : EnvField) (w : U32) (e : EnvCfg) : readEnv f (writeEnv f w e) = w := by
  cases f <;> rfl

theorem readOsc_writeOsc_same {f : OscField} {w : U32} {o : OscIx} (h : legal (.osc o f) w = true) (x : OscCfg) :
    readOsc f (writeOsc f w x) = w := by
  cases f with
  | combine =>
    obtain ⟨l, hl, hcode⟩ := lawOf_of_le (of_decide_eq_true h)
    simp only [writeOsc, hl]
    exact hcode
  | _ => rfl

theorem readLfo_writeLfo_same {f : LfoField} {w : U32} {o : OscIx} {d : DestIx} (h : legal (.lfo o d f) w = true)
    (l : LfoCfg) : readLfo f (writeLfo f w l) = w := by
  cases f with
  | shape =>
    obtain ⟨sh, hsh, hcode⟩ := shapeOf_of_le (of_decide_eq_true h)
    simp only [writeLfo, hsh]
    exact hcode
  | flags => exact flagPair_of_le (of_decide_eq_true h)
  | _ => rfl

theorem setOsc_osc_same (c : Cfg) (o : OscIx) (x : OscCfg) : (setOsc c o x).osc[o] = x :=
  Vector.getElem_set_self o.isLt

theorem setOsc_osc_other (c : Cfg) {o u : OscIx} (x : OscCfg) (h : u ≠ o) :
    (setOsc c o x).osc[u] = c.osc[u] :=
  Vector.getElem_set_ne o.isLt u.isLt (Fin.val_ne_of_ne h.symm)

/-- An RW register reads as the legal value written to it. -/
theorem readReg_writeReg_same {r : Reg} {w : U32} (hrw : access r = .rw) (h : legal r w = true) (s : State) :
    readReg r (writeReg r w s) = w := by
  cases r with
  | global g => exact readGlobal_writeGlobal_same h s
  | env e f => cases e <;> exact readEnv_writeEnv_same f w _
  | osc o f => exact (congrArg (readOsc f) (setOsc_osc_same ..)).trans (readOsc_writeOsc_same h _)
  | lfo o d f =>
    calc readReg (.lfo o d f) (writeReg (.lfo o d f) w s)
        = readLfo f (s.cfg.osc[o].lfo.set d (writeLfo f w s.cfg.osc[o].lfo[d]))[d] :=
          congrArg (fun x : OscCfg => readLfo f x.lfo[d]) (setOsc_osc_same ..)
      _ = readLfo f (writeLfo f w s.cfg.osc[o].lfo[d]) := congrArg (readLfo f) (Vector.getElem_set_self d.isLt)
      _ = w := readLfo_writeLfo_same h _
  | stat x => cases x <;> cases hrw
  | voice v x => cases hrw

/-! ## A register read after a write to another (R155, R501) -/

/-- A MODE write writes the mode and nothing else, with an illegal value the mode that is there. -/
theorem writeGlobal_mode (w : U32) (s : State) :
    ∃ m, writeGlobal .mode w s = s.setCfg { s.cfg with mode := m } := by
  cases h : modeOf w with
  | none => exact ⟨s.cfg.mode, by simp only [writeGlobal, h]; rfl⟩
  | some m => exact ⟨m, by simp only [writeGlobal, h]⟩

/-- A COMBINE write writes the combine law and nothing else of the block. -/
theorem writeOsc_combine (w : U32) (x : OscCfg) : ∃ l, writeOsc .combine w x = { x with combine := l } := by
  cases h : lawOf w with
  | none => exact ⟨x.combine, by simp only [writeOsc, h]⟩
  | some l => exact ⟨l, by simp only [writeOsc, h]⟩

/-- A SHAPE write writes the shape and nothing else of the LFO. -/
theorem writeLfo_shape (w : U32) (l : LfoCfg) : ∃ sh, writeLfo .shape w l = { l with shape := sh } := by
  cases h : shapeOf w with
  | none => exact ⟨l.shape, by simp only [writeLfo, h]⟩
  | some sh => exact ⟨sh, by simp only [writeLfo, h]⟩

/-- A global register's write leaves every other global register. -/
theorem readGlobal_writeGlobal_other {g u : GlobalReg} (h : u ≠ g) (w : U32) (s : State) :
    readGlobal u (writeGlobal g w s) = readGlobal u s := by
  cases g with
  | mode =>
    obtain ⟨m, e⟩ := writeGlobal_mode w s
    cases u with
    | mode => exact absurd rfl h
    | _ => rw [e]; rfl
  | _ => cases u <;> simp [writeGlobal, readGlobal] at h ⊢

/-- A global register's write writes the generator and the global part of the configuration. -/
theorem writeGlobal_writes (g : GlobalReg) (w : U32) (s : State) : ∃ c p, writeGlobal g w s = (s.setCfg c).setPrng p ∧
    c.amp = s.cfg.amp ∧ c.flt = s.cfg.flt ∧ c.osc = s.cfg.osc := by
  cases g with
  | mode =>
    obtain ⟨m, e⟩ := writeGlobal_mode w s
    exact ⟨_, s.prng, e, rfl, rfl, rfl⟩
  | prngA | prngB => exact ⟨s.cfg, _, rfl, rfl, rfl, rfl⟩
  | _ => exact ⟨_, s.prng, rfl, rfl, rfl, rfl⟩

/-- A global register's write leaves every other register. -/
theorem readReg_writeGlobal_other {g : GlobalReg} {u : Reg} (h : u ≠ .global g) (w : U32) (s : State) :
    readReg u (writeGlobal g w s) = readReg u s := by
  obtain ⟨c, p, e, hamp, hflt, hosc⟩ := writeGlobal_writes g w s
  cases u with
  | global v => exact readGlobal_writeGlobal_other (fun hv => h (congrArg _ hv)) w s
  | env sel f =>
    rw [e]
    cases sel
    · exact congrArg (readEnv f) hamp
    · exact congrArg (readEnv f) hflt
  | osc o f =>
    rw [e]
    exact congrArg (fun x : Vector OscCfg 2 => readOsc f x[o]) hosc
  | lfo o d f =>
    rw [e]
    exact congrArg (fun x : Vector OscCfg 2 => readLfo f x[o].lfo[d]) hosc
  | stat x => rw [e]; rfl
  | voice v x => rw [e]; rfl

theorem readEnv_writeEnv_other {f u : EnvField} (h : u ≠ f) (w : U32) (e : EnvCfg) :
    readEnv u (writeEnv f w e) = readEnv u e := by
  cases f <;> cases u <;> simp [writeEnv, readEnv] at h ⊢

theorem readOsc_writeOsc_other {f u : OscField} (h : u ≠ f) (w : U32) (x : OscCfg) :
    readOsc u (writeOsc f w x) = readOsc u x := by
  cases f with
  | combine =>
    obtain ⟨l, e⟩ := writeOsc_combine w x
    cases u with
    | combine => exact absurd rfl h
    | _ => rw [e]; rfl
  | _ => cases u <;> simp [writeOsc, readOsc] at h ⊢

theorem readLfo_writeLfo_other {f u : LfoField} (h : u ≠ f) (w : U32) (l : LfoCfg) :
    readLfo u (writeLfo f w l) = readLfo u l := by
  cases f with
  | shape =>
    obtain ⟨sh, e⟩ := writeLfo_shape w l
    cases u with
    | shape => exact absurd rfl h
    | _ => rw [e]; rfl
  | _ => cases u <;> simp [writeLfo, readLfo, lfoFlags] at h ⊢

/-- An oscillator field's write leaves the oscillator's LFOs. -/
theorem writeOsc_lfo (f : OscField) (w : U32) (x : OscCfg) : (writeOsc f w x).lfo = x.lfo := by
  cases f with
  | combine =>
    obtain ⟨l, e⟩ := writeOsc_combine w x
    rw [e]
  | _ => rfl

/-- A register reads as before oscillator `o`'s block was replaced when, if it is one of that block's, the new block
holds what the old one held there. -/
theorem readReg_setOsc (s : State) (o : OscIx) (x : OscCfg) {r : Reg}
    (hosc : ∀ f, r = .osc o f → readOsc f x = readOsc f s.cfg.osc[o])
    (hlfo : ∀ d f, r = .lfo o d f → readLfo f x.lfo[d] = readLfo f s.cfg.osc[o].lfo[d]) :
    readReg r (s.setCfg (setOsc s.cfg o x)) = readReg r s := by
  cases r with
  | osc u f =>
    obtain rfl | hu := eq_or_ne u o
    · exact (congrArg (readOsc f) (setOsc_osc_same ..)).trans (hosc f rfl)
    · exact congrArg (readOsc f) (setOsc_osc_other _ _ hu)
  | lfo u d f =>
    obtain rfl | hu := eq_or_ne u o
    · exact (congrArg (fun y : OscCfg => readLfo f y.lfo[d]) (setOsc_osc_same ..)).trans (hlfo d f rfl)
    · exact congrArg (fun y : OscCfg => readLfo f y.lfo[d]) (setOsc_osc_other _ _ hu)
  | global g => cases g <;> rfl
  | env e f => cases e <;> rfl
  | _ => rfl

/-- An envelope register's write leaves every other register. -/
theorem readReg_writeEnv_other {sel : EnvSel} {f : EnvField} {u : Reg} (h : u ≠ .env sel f) (w : U32) (s : State) :
    readReg u (writeReg (.env sel f) w s) = readReg u s := by
  cases u with
  | env sel' f' =>
    cases sel <;> cases sel'
    case amp.amp | flt.flt => exact readEnv_writeEnv_other (fun hf => h (congrArg _ hf)) w _
    case amp.flt | flt.amp => rfl
  | global g => cases sel <;> cases g <;> rfl
  | _ => cases sel <;> rfl

/-- An oscillator register's write leaves every other register. -/
theorem readReg_writeOsc_other {o : OscIx} {f : OscField} {u : Reg} (h : u ≠ .osc o f) (w : U32) (s : State) :
    readReg u (writeReg (.osc o f) w s) = readReg u s := by
  refine readReg_setOsc s o _ (fun f' hu => ?_) (fun d f' _ => ?_)
  · subst hu
    exact readOsc_writeOsc_other (fun hf => h (congrArg _ hf)) w _
  · rw [writeOsc_lfo]

/-- An LFO register's write leaves every other register. -/
theorem readReg_writeLfo_other {o : OscIx} {d : DestIx} {f : LfoField} {u : Reg} (h : u ≠ .lfo o d f) (w : U32)
    (s : State) : readReg u (writeReg (.lfo o d f) w s) = readReg u s := by
  refine readReg_setOsc s o _ (fun f' _ => ?_) (fun d' f' hu => ?_)
  · cases f' <;> rfl
  · subst hu
    obtain rfl | hd := eq_or_ne d' d
    · have hset := Vector.getElem_set_self (xs := s.cfg.osc[o].lfo) (x := writeLfo f w s.cfg.osc[o].lfo[d']) d'.isLt
      exact (congrArg (readLfo f') hset).trans (readLfo_writeLfo_other (fun hf => h (congrArg _ hf)) w _)
    · exact congrArg (readLfo f') (Vector.getElem_set_ne d.isLt d'.isLt (Fin.val_ne_of_ne hd.symm))

/-- Only STATUS reads STATUS. -/
theorem readReg_setStatus {u : Reg} (h : u ≠ .stat .status) (s : State) (st : BitVec 4) :
    readReg u (s.setStatus st) = readReg u s := by
  cases u with
  | stat x =>
    cases x with
    | status => exact absurd rfl h
    | _ => rfl
  | _ => rfl

/-- A register write leaves every register but the one written. -/
theorem readReg_writeReg_other {r u : Reg} (h : u ≠ r) (w : U32) (s : State) :
    readReg u (writeReg r w s) = readReg u s := by
  cases r with
  | global g => exact readReg_writeGlobal_other h w s
  | env sel f => exact readReg_writeEnv_other h w s
  | osc o f => exact readReg_writeOsc_other h w s
  | lfo o d f => exact readReg_writeLfo_other h w s
  | stat x =>
    cases x with
    | status => exact readReg_setStatus h s _
    | _ => rfl
  | voice v x => rfl

/-- A register write leaves the frames, the ports and the responses. -/
theorem writeReg_frame (r : Reg) (w : U32) (s : State) : SameFrames s (writeReg r w s) ∧ SamePorts s (writeReg r w s) ∧
    NoResponse s (writeReg r w s) := by
  obtain ⟨c, g, st, e⟩ := writeReg_writes r w s
  rw [e]
  exact ⟨fun _ => rfl, ⟨rfl, rfl⟩, ⟨rfl, rfl⟩⟩

/-- Settles O13: the written register by `readReg_writeReg_same`, the others by `readReg_writeReg_other`. -/
theorem cfgWriteSetsItsRegisterAlone : Obligations.CfgWriteSetsItsRegisterAlone := by
  intro s a r w ha hrw hw
  have hro : access r ≠ .ro := by simp [hrw]
  exact ⟨_, exec_cfgWrite ha hro hw s, readReg_writeReg_same hrw hw s, fun _ hu => readReg_writeReg_other hu w s,
    writeReg_frame r w s⟩

/-! ## STATUS (R503) -/

/-- A CFG_WRITE word with a bit set in cmd[55:48] has a reserved bit set (R202, R210). -/
theorem decode_cfgWrite_reserved {w : Cmd} (hop : opByte w = 0x04#8) (hhi : fieldHi w ≠ 0#8) :
    decode w = .reservedBits .cfgWrite (fieldLow w) := by
  have hrow : opcodeOf (opByte w) = some .cfgWrite := by rw [hop]; rfl
  have hmask : w &&& opMask .cfgWrite ≠ opMatch .cfgWrite := by
    intro hmask
    have hword := encodeOfDecode w _ (decode_eq_instr_iff.mpr ⟨_, hrow, hmask, rfl⟩)
    exact hhi (hword ▸ fieldHi_formatC ..)
  rw [decode_of_opcode hrow, if_neg hmask]

/-- Settles O14: STATUS keeps the bits written as 0; a word with a reserved bit set raises E_RESERVED instead. -/
theorem statusWriteClearsOnes : Obligations.StatusWriteClearsOnes := by
  refine ⟨fun s w => ⟨statusW1C w s.status, ?write, fun i => ?bit⟩, fun w s hop hhi => ?reserved⟩
  case write => exact exec_cfgWrite (r := .stat .status) ((registerMapIsTheTables _ _).mpr rfl) (by decide) rfl s
  case bit => simp [statusW1C, i.isLt]
  case reserved =>
    simp only [runWord, decode_cfgWrite_reserved hop hhi]
    rfl

/-! ## Responses (R502, R504, R505) -/

/-- Settles O15: the one word is delivered when there is room and waits when there is none. -/
theorem regReadRespondsWithThePattern : Obligations.RegReadRespondsWithThePattern := by
  intro s a r ha
  rw [exec_regRead ha]
  refine ⟨fun hroom => congrArg Host.Outcome.next (respond_room .nothing hroom), fun hroom => ?_⟩
  rw [(respond_waits (ws := [readReg r s]) .nothing hroom (List.cons_ne_nil _ _)).2, deliver_noRoom hroom]
  rfl

/-- Settles O55: both words are clamps between the ordered bounds 0 and 1, NaN frames included. -/
theorem popOutputStaysInItsRange : Obligations.PopOutputStaysInItsRange := by
  intro s hroom
  obtain ⟨c, -, e⟩ := (popOutputRespondsAndAdvances s).1 hroom
  have hclamp (x : F32) := Fp.clamp_between x (lo := Fp.pos0) (hi := Fp.one) (by decide)
  obtain ⟨hl, hl'⟩ := hclamp (Memory.read s.buf s.readCursor.val).l
  obtain ⟨hr, hr'⟩ := hclamp (Memory.read s.buf s.readCursor.val).r
  exact ⟨_, _, _, e, rfl, hl, hl', hr, hr'⟩

/-- What still waits after a response with nothing after it has nothing after it. -/
theorem respond_after_nothing {ws : List U32} {s : State} {p : InFlight}
    (h : (respond ws .nothing s).inFlight = some p) : p.after = .nothing := by
  rcases respond_cases ws .nothing s with ⟨-, e⟩ | ⟨-, e⟩ <;> rw [e] at h
  · cases h
  · cases h
    rfl

/-- A response with nothing after it leaves the registers, the frames and the ports. -/
theorem respond_nothing_sameRegs (ws : List U32) (s : State) : SameRegs s (respond ws .nothing s) ∧
    SameFrames s (respond ws .nothing s) ∧ SamePorts s (respond ws .nothing s) := by
  obtain ⟨q, p, e⟩ := respond_frame ws s
  rw [e]
  exact ⟨fun _ => rfl, fun _ => rfl, rfl, rfl⟩

theorem length_scopeWords (F : Config.Fns) (c : OscCfg) (n : Nat) : (scopeWords F c n).length = n := by
  simp [scopeWords]

theorem getElem?_scopeWords (F : Config.Fns) (c : OscCfg) {n i : Nat} (h : i < n) :
    (scopeWords F c n)[i]? = some (scopeWord F c n i) := by
  simp [scopeWords, h]

/-- Settles O56: the preview's words are one response, which writes no register and has nothing after it. -/
theorem renderScopePreviewsWithoutState : Obligations.RenderScopePreviewsWithoutState := by
  intro s o oi n ho c sh
  refine ⟨_, scopeWords fns c n.toNat, exec_renderScope ho n s, ?words, length_scopeWords .., fun i hi => ?word,
    fun hroom => ?room, fun _ hp => respond_after_nothing hp, respond_nothing_sameRegs _ s⟩
  case words => rw [respond_rspFifo, respond_waitingWords, deliver_append]
  case word => exact getElem?_scopeWords fns c hi
  case room =>
    have hfits : RoomFor (scopeWords fns c n.toNat).length s := by rwa [length_scopeWords]
    rw [respond_room .nothing hfits]
    exact ⟨rfl, rfl⟩

end Sys2Proof.Machine

end

/-! # Command errors and reset (60_exceptions.md, 70_reset_and_hazards.md)

Proofs of the obligations on command errors and on reset: a word that raises an error is the error operation on the
state, a word that passes the checks is a command that leaves STATUS or clears bits of it, and reset is read register
by register. -/

section

namespace Sys2Proof.Machine

/-! ## The words of R569 -/

/-- Settles O3: each word selects its row of the opcode map, and the row's mask and fields are read off the word. -/
theorem specExampleWordsDecode : Obligations.SpecExampleWordsDecode := by
  unfold Obligations.SpecExampleWordsDecode
  decide

/-! ## The commands on their illegal operands (R552, R553) -/

theorem exec_cfgWrite_unmapped {a : BitVec 16} (ha : regOfAddr a = none) (w : U32) (s : State) :
    exec (.cfgWrite a w) s = .next (raiseCmdError .address 0 s) := by
  simp only [exec, execCfgWrite, ha]

theorem exec_cfgWrite_readOnly {a : BitVec 16} {r : Reg} (ha : regOfAddr a = some r) (hro : access r = .ro) (w : U32)
    (s : State) : exec (.cfgWrite a w) s = .next (raiseCmdError .address 0 s) := by
  simp only [exec, execCfgWrite, ha, if_pos hro]

theorem exec_cfgWrite_illegal {a : BitVec 16} {r : Reg} {w : U32} (ha : regOfAddr a = some r) (hro : access r ≠ .ro)
    (hw : legal r w = false) (s : State) : exec (.cfgWrite a w) s = .next (raiseCmdError .value 0 s) := by
  simp only [exec, execCfgWrite, ha, if_neg hro, hw, Bool.false_eq_true, if_false]

theorem exec_regRead_unmapped {a : BitVec 16} (ha : regOfAddr a = none) (s : State) :
    exec (.regRead a) s = .next (raiseCmdError .address 1 s) := by
  simp only [exec, execRegRead, ha]

theorem exec_renderScope_illegal {o : BitVec 8} (ho : oscOf o = none) (n : U32) (s : State) :
    exec (.renderScope o n) s = .next (raiseCmdError .value n.toNat s) := by
  simp only [exec, execRenderScope, ho]

theorem oscOf_eq_none {o : BitVec 8} (h : 1 < o.toNat) : oscOf o = none := by
  have h0 : o ≠ 0 := by rintro rfl; exact absurd h (by decide)
  have h1 : o ≠ 1 := by rintro rfl; exact absurd h (by decide)
  rw [oscOf, if_neg h0, if_neg h1]

/-- With room for its zero words an error delivers them and completes (R557). -/
theorem raiseCmdError_room (e : CmdError) {n : Nat} {s : State} (h : RoomFor n s) : raiseCmdError e n s =
    ((s.setStatus (statusRaise e s.status)).setRspFifo (s.rspFifo ++ List.replicate n 0#32)).setInFlight none := by
  refine respond_room .nothing ?_
  rwa [List.length_replicate]

/-- Settles O8: the erring commands with the zero words there is room for; the legal sets by the cases of `legal`. -/
theorem illegalValuesSetEValue : Obligations.IllegalValuesSetEValue := by
  refine ⟨fun s ch key vel hkey => ?noteOn, fun s ch key hkey => ?noteOff, fun s o n ho hroom => ?scope,
    fun s a r w ha hrw hw => ?cfgWrite, fun w => ⟨rfl, rfl⟩, fun w o d => ⟨rfl, rfl, rfl⟩,
    fun r w hmode hchan hcomb hlfo => ?others⟩
  case noteOn => rw [exec_noteOn_eq, if_neg (Nat.not_le.mpr hkey)]; rfl
  case noteOff => rw [exec_noteOff_eq, if_neg (Nat.not_le.mpr hkey)]; rfl
  case scope => rw [exec_renderScope_illegal (oscOf_eq_none ho), raiseCmdError_room .value hroom]; rfl
  case cfgWrite => exact exec_cfgWrite_illegal ha (by simp [hrw]) hw s
  case others =>
    cases r with
    | global g =>
      cases g with
      | mode => exact absurd rfl hmode
      | channel => exact absurd rfl hchan
      | _ => rfl
    | osc o f =>
      cases f with
      | combine => exact absurd rfl (hcomb o)
      | _ => rfl
    | lfo o d f =>
      obtain ⟨hshape, hflags⟩ := hlfo o d
      cases f with
      | shape => exact absurd rfl hshape
      | flags => exact absurd rfl hflags
      | _ => rfl
    | _ => rfl

/-- The read-only registers are the status and runtime registers but STATUS, and the voice registers (R58, R60). -/
theorem access_eq_ro_iff (r : Reg) :
    access r = .ro ↔ (∃ x, r = .stat x ∧ x ≠ .status) ∨ ∃ v x, r = .voice v x := by
  cases r with
  | stat x => cases x <;> simp [access]
  | _ => simp [access]

/-- Settles O9: the commands on unmapped and read-only addresses. -/
theorem badAddressesSetEAddress : Obligations.BadAddressesSetEAddress := by
  refine ⟨fun s a w ha => exec_cfgWrite_unmapped ha w s, fun s a r w ha hro => exec_cfgWrite_readOnly ha hro w s,
    fun s a ha hroom => ?_, access_eq_ro_iff⟩
  rw [exec_regRead_unmapped ha, raiseCmdError_room .address hroom]
  rfl

/-! ## A word that raises an error is the error operation (R556, R557) -/

/-- A command's word gives the responses of the command's opcode. -/
theorem wordResponses_encode (i : Instr) :
    wordResponses (encode i) = responseCount (opcodeOfInstr i) (fieldLow (encode i)) := by
  simp only [wordResponses, (encodedRow i).1]

/-- The key check of a note event fails just for a key above 127, with E_VALUE. -/
theorem keyError_eq_some_iff {key : BitVec 8} {e : CmdError} :
    (if keyLegal key then none else some .value) = some e ↔ ¬ key.toNat ≤ 127 ∧ .value = e := by
  by_cases h : key.toNat ≤ 127 <;> simp [keyLegal, h]

/-- A CFG_WRITE that fails a check raises that check's error. -/
theorem exec_cfgWrite_of_operandError {a : BitVec 16} {w : U32} {e : CmdError}
    (h : operandError (.cfgWrite a w) = some e) (s : State) :
    exec (.cfgWrite a w) s = .next (raiseCmdError e 0 s) := by
  cases ha : regOfAddr a with
  | none =>
    obtain rfl : .address = e := by simpa only [operandError, ha, Option.some.injEq] using h
    exact exec_cfgWrite_unmapped ha w s
  | some r =>
    simp only [operandError, ha] at h
    split_ifs at h with hro hw <;> obtain rfl := Option.some.inj h
    · exact exec_cfgWrite_readOnly ha hro w s
    · exact exec_cfgWrite_illegal ha hro (Bool.eq_false_of_not_eq_true hw) s

/-- A command that fails an operand check raises the check's error with as many zero words as it has responses. -/
theorem exec_of_operandError {i : Instr} {e : CmdError} (h : operandError i = some e) (s : State) :
    exec i s = .next (raiseCmdError e (wordResponses (encode i)) s) := by
  rw [wordResponses_encode]
  cases i with
  | nop | render _ | popOutput => cases h
  | noteOn ch key vel =>
    obtain ⟨hkey, rfl⟩ := keyError_eq_some_iff.mp h
    rw [exec_noteOn_eq, if_neg hkey]
    rfl
  | noteOff ch key =>
    obtain ⟨hkey, rfl⟩ := keyError_eq_some_iff.mp h
    rw [exec_noteOff_eq, if_neg hkey]
    rfl
  | cfgWrite a w => exact exec_cfgWrite_of_operandError h s
  | regRead a =>
    simp only [operandError, Option.isSome_iff_ne_none] at h
    split_ifs at h with ha
    obtain rfl := Option.some.inj h
    exact exec_regRead_unmapped (not_not.mp ha) s
  | renderScope o n =>
    simp only [operandError, Option.isSome_iff_ne_none] at h
    split_ifs at h with ho
    obtain rfl := Option.some.inj h
    rw [exec_renderScope_illegal (not_not.mp ho), encode, fieldLow_append]
    rfl

/-- A word that raises an error, whichever, is the error operation on the state. -/
theorem runWord_of_wordError {w : Cmd} {e : CmdError} (h : wordError w = some e) (s : State) :
    runWord w s = .next (raiseCmdError e (wordResponses w) s) := by
  cases hop : opcodeOf (opByte w) with
  | none =>
    have hd : decode w = .reservedOpcode := by simp only [decode, hop]
    obtain rfl : .opcode = e := by simpa only [wordError, hd, Option.some.injEq] using h
    simp only [runWord, hd, rejectWord, wordResponses, hop]
  | some op =>
    by_cases hmask : w &&& opMask op = opMatch op
    · have hd : decode w = .instr (operands op w) := by rw [decode_of_opcode hop, if_pos hmask]
      have herr : operandError (operands op w) = some e := by simpa only [wordError, hd] using h
      simp only [runWord, hd, exec_of_operandError herr, encodeOfDecode w _ hd]
    · have hd : decode w = .reservedBits op (fieldLow w) := by rw [decode_of_opcode hop, if_neg hmask]
      obtain rfl : .reserved = e := by simpa only [wordError, hd, Option.some.injEq] using h
      simp only [runWord, hd, rejectWord, wordResponses, hop]

/-- A response leaves STATUS. -/
@[simp] theorem respond_status (ws : List U32) (a : AfterRsp) (s : State) : (respond ws a s).status = s.status := by
  obtain ⟨q, p, c, h⟩ := respond_writes ws a s
  rw [h]
  rfl

/-- Settles O10: the word is the error operation, a response of zero words on the state with the STATUS bit set. -/
theorem errorsAreEffectFree : Obligations.ErrorsAreEffectFree := by
  intro w e s h
  obtain ⟨hregs, hframes, hports⟩ :=
    respond_nothing_sameRegs (List.replicate (wordResponses w) 0#32) (s.setStatus (statusRaise e s.status))
  refine ⟨_, runWord_of_wordError h s, respond_status .., fun r hr => ?regs, hframes, hports, ?words,
    fun _ => respond_after_nothing⟩
  case regs => exact (hregs r).trans (readReg_setStatus hr s _)
  case words => rw [raiseCmdError, respond_rspFifo, respond_waitingWords, deliver_append]; rfl

/-! ## A command that passes its checks (R555) -/

theorem operandError_cfgWrite_eq_none {a : BitVec 16} {w : U32} (h : operandError (.cfgWrite a w) = none) :
    ∃ r, regOfAddr a = some r ∧ access r ≠ .ro ∧ legal r w = true := by
  cases ha : regOfAddr a with
  | none => simp only [operandError, ha, reduceCtorEq] at h
  | some r =>
    simp only [operandError, ha] at h
    split_ifs at h with hro hw
    exact ⟨r, rfl, hro, hw⟩

/-- A NOTE_ON leaves STATUS. -/
theorem noteOn_status (ch key : BitVec 8) (vel : F32) (s : State) : (noteOn ch key vel s).status = s.status := by
  obtain h | ⟨-, h⟩ | ⟨v, -, h⟩ := noteOn_cases ch key vel s
  · rw [h]
  all_goals rw [h]; rfl

/-- A NOTE_OFF leaves STATUS. -/
theorem noteOff_status (ch key : BitVec 8) (s : State) : (noteOff ch key s).status = s.status := by
  obtain h | ⟨v, h⟩ := noteOff_cases ch key s
  · rw [h]
  · rw [h]; rfl

/-- A rendered block leaves STATUS. -/
theorem renderBlock_status (F : Config.Fns) (n : Nat) (s : State) :
    (renderSamples F n (beginBlock s)).status = s.status := by
  obtain ⟨i, u, e⟩ := beginBlock_writes s
  rw [(renderSamples_machine F n (beginBlock s)).status, e, State.setArp_status]

/-- A write of a register other than STATUS leaves STATUS. -/
theorem writeReg_status {r : Reg} (h : r ≠ .stat .status) (w : U32) (s : State) :
    (writeReg r w s).status = s.status := by
  have hread : ((writeReg r w s).status.setWidth 32).toNat = (s.status.setWidth 32).toNat :=
    congrArg BitVec.toNat (readReg_writeReg_other (u := .stat .status) h.symm w s)
  rw [BitVec.toNat_setWidth_of_le (by decide), BitVec.toNat_setWidth_of_le (by decide)] at hread
  exact BitVec.eq_of_toNat_eq hread

/-- Write one to clear sets no bit (R503). -/
theorem statusW1C_clears (w : U32) (st : BitVec 4) : statusW1C w st &&& ~~~st = 0#4 := by
  ext i hi
  simp only [statusW1C, BitVec.getElem_and, BitVec.getElem_not, BitVec.getElem_zero]
  cases st[i] <;> simp

/-- STATUS lies at 0x0800 (R58). -/
theorem regOfAddr_eq_status_iff {a : BitVec 16} : regOfAddr a = some (.stat .status) ↔ a = 0x0800#16 := by
  rw [registerMapIsTheTables, BitVec.toNat_eq, eq_comm]
  rfl

/-- A CFG_WRITE of STATUS clears the bits written as 1. -/
theorem exec_statusWrite (x : U32) (s : State) :
    exec (.cfgWrite 0x0800#16 x) s = .next (s.setStatus (statusW1C x s.status)) :=
  exec_cfgWrite (regOfAddr_eq_status_iff.mpr rfl) (by decide) rfl s

/-- A command that passes its checks and is no write of STATUS leaves STATUS. -/
theorem exec_keepsStatus {i : Instr} (h : operandError i = none) (hi : ∀ x, i ≠ .cfgWrite 0x0800#16 x) (s : State) :
    ∃ t, exec i s = .next t ∧ t.status = s.status := by
  cases i with
  | nop => exact ⟨s, rfl, rfl⟩
  | noteOn ch key vel =>
    have hkey : key.toNat ≤ 127 := by simpa [operandError, keyLegal] using h
    exact ⟨_, exec_noteOn_of_legal hkey, noteOn_status ..⟩
  | noteOff ch key =>
    have hkey : key.toNat ≤ 127 := by simpa [operandError, keyLegal] using h
    exact ⟨_, exec_noteOff_of_legal hkey, noteOff_status ..⟩
  | render n => exact ⟨_, exec_render n s, renderBlock_status ..⟩
  | cfgWrite a w =>
    obtain ⟨r, ha, hro, hw⟩ := operandError_cfgWrite_eq_none h
    refine ⟨_, exec_cfgWrite ha hro hw s, writeReg_status ?_ w s⟩
    rintro rfl
    exact hi w (by rw [regOfAddr_eq_status_iff.mp ha])
  | regRead a =>
    obtain ⟨r, ha⟩ : ∃ r, regOfAddr a = some r := by simpa [operandError, Option.isSome_iff_exists] using h
    exact ⟨_, exec_regRead ha s, respond_status ..⟩
  | popOutput => exact ⟨_, rfl, respond_status ..⟩
  | renderScope o n =>
    cases ho : oscOf o with
    | none => simp [operandError, ho] at h
    | some oi => exact ⟨_, by simp only [exec, execRenderScope, ho]; rfl, respond_status ..⟩

/-- Settles O11: a write of STATUS clears bits, any other command leaves it by `exec_keepsStatus`. -/
theorem passingWordsRaiseNothing : Obligations.PassingWordsRaiseNothing := by
  intro w s h
  obtain ⟨i, hd⟩ : ∃ i, decode w = .instr i := by
    cases hd : decode w with
    | instr i => exact ⟨i, rfl⟩
    | _ => simp [wordError, hd] at h
  have hrun : runWord w s = exec i s := by simp only [runWord, hd]
  have herr : operandError i = none := by simpa only [wordError, hd] using h
  simp only [hrun, hd, ne_eq, Decoded.instr.injEq]
  by_cases hi : ∀ x, i ≠ .cfgWrite 0x0800#16 x
  · obtain ⟨t, ht, hst⟩ := exec_keepsStatus herr hi s
    exact ⟨t, ht, by simp [hst], fun _ => hst⟩
  · obtain ⟨x, rfl⟩ : ∃ x, i = .cfgWrite 0x0800#16 x := by simpa using hi
    exact ⟨_, exec_statusWrite x s, statusW1C_clears x s.status, fun hne => absurd rfl (hne x)⟩

/-! ## Reset (R600) -/

theorem State.reset_voice (v : Slot) : State.reset.voice v = Voice.reset := vec6_get ..

theorem State.reset_osc (o : OscIx) : State.reset.cfg.osc[o] = OscCfg.reset := vec2_get ..

theorem OscCfg.reset_lfo (d : DestIx) : OscCfg.reset.lfo[d] = LfoCfg.reset := vec6_get ..

theorem Voice.reset_osc (o : OscIx) : Voice.reset.osc[o] = OscState.reset := vec2_get ..

theorem OscState.reset_lfoPh (d : DestIx) : OscState.reset.lfoPh[d] = 0#32 := vec6_get ..

theorem readReg_reset_env (sel : EnvSel) (f : EnvField) : readReg (.env sel f) State.reset = 0#32 := by
  cases sel <;> cases f <;> rfl

theorem readReg_reset_osc (o : OscIx) (f : OscField) : readReg (.osc o f) State.reset = 0#32 := by
  have hzero : readOsc f OscCfg.reset = 0#32 := by cases f <;> rfl
  exact (congrArg (readOsc f) (State.reset_osc o)).trans hzero

theorem readReg_reset_lfo (o : OscIx) (d : DestIx) (f : LfoField) : readReg (.lfo o d f) State.reset = 0#32 := by
  have hlfo : State.reset.cfg.osc[o].lfo[d] = LfoCfg.reset := by rw [State.reset_osc, OscCfg.reset_lfo]
  have hzero : readLfo f LfoCfg.reset = 0#32 := by cases f <;> rfl
  exact (congrArg (readLfo f) hlfo).trans hzero

/-- A voice register reads 0 at reset, but KEY reads "no key" (R60). -/
theorem readReg_reset_voice (v : Slot) (x : VoiceReg) :
    readReg (.voice v x) State.reset = if x = .key then 0xFF#32 else 0#32 := by
  refine (congrArg (readVoice x) (State.reset_voice v)).trans ?_
  cases x with
  | fs i => fin_cases i <;> rfl
  | phase o | prev o => simp only [readVoice, Voice.reset_osc]; rfl
  | lfoPh o d => simp only [readVoice, Voice.reset_osc, OscState.reset_lfoPh]; rfl
  | _ => rfl

/-- Settles O57: the registers table by table, the rest by definition, and the reset input as a move of the host. -/
theorem resetLeavesTheListedValues : Obligations.ResetLeavesTheListedValues := by
  refine ⟨fun r => ?regs, fun _ => rfl, rfl, rfl, rfl, fun s rest ha => step_of_hostMove_some ?reset⟩
  case regs =>
    cases r with
    | global g => cases g <;> rfl
    | stat x => cases x <;> rfl
    | env sel f => simpa using readReg_reset_env sel f
    | osc o f => simpa using readReg_reset_osc o f
    | lfo o d f => simpa using readReg_reset_lfo o d f
    | voice v x => simpa using readReg_reset_voice v x
  case reset => simp only [hostMove, ha, assertReset]

end Sys2Proof.Machine

end
